-- ==== Sys2Proof/Word.lean ====
section
/-! DEFINITION. The word types of the block: bytes of the image data and 32-bit registers
(00_scope.md R7, R8, R9). Every value is unsigned; nothing is sign-extended. -/

namespace Sys2Proof

/-- A byte of image data, an integer 0..255 (00_scope.md R8). -/
abbrev Byte := BitVec 8

/-- The value of one register access: 32 bits, bit 0 the least significant (00_scope.md R7, R9). -/
abbrev Word := BitVec 32

/-- The stored bits of FORMAT: COLOR_TYPE in 15:8 and BIT_DEPTH in 7:0 (10_state.md R26). -/
abbrev FormatBits := BitVec 16

/-- One channel of an extracted pixel (10_state.md R39). -/
abbrev Channel := BitVec 16

end Sys2Proof
end

