-- ==== Sys2Proof/Config.lean ====
section
/-! DEFINITION. What an implementation fixes: the parameters of 00_scope.md R7. The spec leaves no
RESULT of an instruction open, so there is no free value here. -/

namespace Sys2Proof

/-- The two OPEN parameters of the block (00_scope.md R7). A State carries its own Config and no step changes it,
so a statement about every state is a statement about every value of the parameters (log 1, DESIGN CHOICE). -/
structure Config where
  /-- ROW_BYTES_MAX: the capacity of RECON in bytes; RAW holds one byte more (decision D8). -/
  rowBytesMax : Nat
  /-- BASE: the bus address of register offset 0x00 (decision D5). -/
  base : Nat
deriving DecidableEq, Repr

/-- The bounds 00_scope.md R7 puts on the parameters. -/
def Config.wf (c : Config) : Bool :=
  decide (1 ≤ c.rowBytesMax) && decide (c.rowBytesMax ≤ 2 ^ 32 - 1) && decide (c.base % 0x80 = 0)

/-- The parameters State.reset is written with: ROW_BYTES_MAX = 64 as in the spec's own programs
(95_test_vectors.md section 10) and BASE = 0. DESIGN CHOICE (log 1): the spec leaves both open. -/
def Config.initial : Config := { rowBytesMax := 64, base := 0 }

end Sys2Proof
end

