-- ==== Sys2Proof/Syntax.lean ====
section
/-! DEFINITION. The instructions: one constructor per row of spec/opcode_table.json (15 rows: five command words,
five filter bytes, five format fields; 30_encoding.md R80, R82, R85). -/

namespace Sys2Proof

/-- What the block can be told to do. A command word is an instruction written to CMD; a filter byte and a format
field are the instructions that DEFILTER and EXTRACT decode from RAW[0] and FORMAT (30_encoding.md, its first table).
A format field's row matches on COLOR_TYPE alone, so its BIT_DEPTH is an operand. -/
inductive Instr where
  /-- NOP, CMD word 0x0000_0000 (40_commands.md R100). -/
  | nop
  /-- CLEAR_PREV, CMD word 0x0000_0001 (40_commands.md R101). -/
  | clearPrev
  /-- DEFILTER, CMD word 0x0000_0002 (41_defilter.md R120). -/
  | defilter
  /-- EXTRACT, CMD word 0x0000_0003 (42_pixel_extract.md R150). -/
  | extract
  /-- RESET, CMD word 0x0000_0004 (40_commands.md R102). -/
  | reset
  /-- FILTER_NONE, filter byte 0 (41_defilter.md R122). -/
  | filterNone
  /-- FILTER_SUB, filter byte 1 (41_defilter.md R123). -/
  | filterSub
  /-- FILTER_UP, filter byte 2 (41_defilter.md R124). -/
  | filterUp
  /-- FILTER_AVERAGE, filter byte 3 (41_defilter.md R125). -/
  | filterAverage
  /-- FILTER_PAETH, filter byte 4 (41_defilter.md R126). -/
  | filterPaeth
  /-- PIX_GREYSCALE, COLOR_TYPE 0 (42_pixel_extract.md R154). -/
  | pixGreyscale (depth : Byte)
  /-- PIX_RGB, COLOR_TYPE 2 (42_pixel_extract.md R156). -/
  | pixRgb (depth : Byte)
  /-- PIX_PALETTE, COLOR_TYPE 3 (42_pixel_extract.md R158). -/
  | pixPalette (depth : Byte)
  /-- PIX_GREYSCALE_ALPHA, COLOR_TYPE 4 (42_pixel_extract.md R155). -/
  | pixGreyscaleAlpha (depth : Byte)
  /-- PIX_RGBA, COLOR_TYPE 6 (42_pixel_extract.md R157). -/
  | pixRgba (depth : Byte)
deriving DecidableEq, Repr

end Sys2Proof
end

