-- ==== Sys2Proof/Decode.lean ====
section
/-! DEFINITION. The three encodings of 30_encoding.md: command words (R80, R81), filter-type bytes (R82) and format
fields (R83 to R85), with the legality table LEGAL (R84). The decoder is total and rejects by name; the encoder stands
after it, written from the same tables. -/

namespace Sys2Proof

/-- The five filters a filter-type byte selects (30_encoding.md R82). -/
inductive FilterType where
  | none | sub | up | average | paeth
deriving DecidableEq, Repr

/-- The five colour models (30_encoding.md R83, R84; 00_scope.md R12). -/
inductive ColorModel where
  | greyscale | rgb | palette | greyscaleAlpha | rgba
deriving DecidableEq, Repr

/-- A code word of one of the three encodings, each of a fixed width (30_encoding.md R90). -/
inductive CodeWord where
  /-- the 32-bit value of a CMD write -/
  | command (w : Word)
  /-- the 8-bit filter-type byte RAW[0] -/
  | filter (b : Byte)
  /-- the 16-bit field FORMAT[15:0] -/
  | format (f : FormatBits)
deriving DecidableEq, Repr

/-- Why a code word is no instruction (30_encoding.md R89). -/
inductive DecodeError where
  /-- a command word outside R80 (R81) -/
  | badCommand (w : Word)
  /-- a filter byte 5..255 (R82) -/
  | invalidFilter (b : Byte)
  /-- a colour type other than 0, 2, 3, 4 and 6 (R83) -/
  | invalidColorType (ct : Byte)
deriving DecidableEq, Repr

/-- The numeral of each filter (30_encoding.md R82; the pairing is PRESUMED by the spec itself, log 10). -/
def FilterType.toByte : FilterType → Byte
  | .none => 0x00
  | .sub => 0x01
  | .up => 0x02
  | .average => 0x03
  | .paeth => 0x04

/-- The filter a filter-type byte names; 5..255 name none (30_encoding.md R82). -/
def FilterType.ofByte (b : Byte) : Option FilterType :=
  if b = 0x00 then some .none
  else if b = 0x01 then some .sub
  else if b = 0x02 then some .up
  else if b = 0x03 then some .average
  else if b = 0x04 then some .paeth
  else Option.none

/-- The COLOR_TYPE of each colour model (30_encoding.md R83). -/
def ColorModel.toByte : ColorModel → Byte
  | .greyscale => 0x00
  | .rgb => 0x02
  | .palette => 0x03
  | .greyscaleAlpha => 0x04
  | .rgba => 0x06

/-- The colour model a COLOR_TYPE names; 1, 5 and 7..255 name none (30_encoding.md R83). -/
def ColorModel.ofByte (ct : Byte) : Option ColorModel :=
  if ct = 0x00 then some .greyscale
  else if ct = 0x02 then some .rgb
  else if ct = 0x03 then some .palette
  else if ct = 0x04 then some .greyscaleAlpha
  else if ct = 0x06 then some .rgba
  else none

/-- The legal bit depths of each colour model: the column of table LEGAL (30_encoding.md R84). -/
def ColorModel.legalDepths : ColorModel → List Nat
  | .greyscale => [1, 2, 4, 8, 16]
  | .rgb => [8, 16]
  | .palette => [1, 2, 4, 8]
  | .greyscaleAlpha => [8, 16]
  | .rgba => [8, 16]

/-- `fmt_legal` for a known colour model (00_scope.md R11, 30_encoding.md R84). -/
def ColorModel.depthLegal (m : ColorModel) (depth : Byte) : Bool :=
  decide (depth.toNat ∈ m.legalDepths)

/-- COLOR_TYPE = FORMAT[15:8] (10_state.md R26). -/
def FormatBits.colorType (f : FormatBits) : Byte := f.extractLsb' 8 8

/-- BIT_DEPTH = FORMAT[7:0] (10_state.md R26). -/
def FormatBits.bitDepth (f : FormatBits) : Byte := f.extractLsb' 0 8

/-- FORMAT[15:0] for a colour type and a bit depth (10_state.md R26; `fmt` of 30_encoding.md R92). -/
def FormatBits.make (ct depth : Byte) : FormatBits := ct ++ depth

/-- The instruction of a filter. -/
def FilterType.instr : FilterType → Instr
  | .none => .filterNone
  | .sub => .filterSub
  | .up => .filterUp
  | .average => .filterAverage
  | .paeth => .filterPaeth

/-- The instruction of an extraction variant (30_encoding.md R85). -/
def ColorModel.instr (m : ColorModel) (depth : Byte) : Instr :=
  match m with
  | .greyscale => .pixGreyscale depth
  | .rgb => .pixRgb depth
  | .palette => .pixPalette depth
  | .greyscaleAlpha => .pixGreyscaleAlpha depth
  | .rgba => .pixRgba depth

/-- The command a CMD word names, matched on all 32 bits (30_encoding.md R80, R81). -/
def decodeCommand (w : Word) : Except DecodeError Instr :=
  if w = 0x00000000 then .ok .nop
  else if w = 0x00000001 then .ok .clearPrev
  else if w = 0x00000002 then .ok .defilter
  else if w = 0x00000003 then .ok .extract
  else if w = 0x00000004 then .ok .reset
  else .error (.badCommand w)

/-- The filter a filter-type byte selects (30_encoding.md R82). -/
def decodeFilter (b : Byte) : Except DecodeError Instr :=
  match FilterType.ofByte b with
  | some f => .ok f.instr
  | none => .error (.invalidFilter b)

/-- The extraction variant a format field selects, from COLOR_TYPE alone (30_encoding.md R85). The depth is read as
it stands: whether it is legal is WellFormed's question, and the meaning raises INVALID_FORMAT where it is not
(DEDUCED, log 8). -/
def decodeFormat (f : FormatBits) : Except DecodeError Instr :=
  match ColorModel.ofByte (FormatBits.colorType f) with
  | some m => .ok (m.instr (FormatBits.bitDepth f))
  | none => .error (.invalidColorType (FormatBits.colorType f))

/-- The decoder, total on every code word (30_encoding.md). -/
def decode : CodeWord → Except DecodeError Instr
  | .command w => decodeCommand w
  | .filter b => decodeFilter b
  | .format f => decodeFormat f

/-- The code word of an instruction (30_encoding.md R80, R82, R83). -/
def encode : Instr → CodeWord
  | .nop => .command 0x00000000
  | .clearPrev => .command 0x00000001
  | .defilter => .command 0x00000002
  | .extract => .command 0x00000003
  | .reset => .command 0x00000004
  | .filterNone => .filter (FilterType.toByte .none)
  | .filterSub => .filter (FilterType.toByte .sub)
  | .filterUp => .filter (FilterType.toByte .up)
  | .filterAverage => .filter (FilterType.toByte .average)
  | .filterPaeth => .filter (FilterType.toByte .paeth)
  | .pixGreyscale depth => .format (FormatBits.make (ColorModel.toByte .greyscale) depth)
  | .pixRgb depth => .format (FormatBits.make (ColorModel.toByte .rgb) depth)
  | .pixPalette depth => .format (FormatBits.make (ColorModel.toByte .palette) depth)
  | .pixGreyscaleAlpha depth => .format (FormatBits.make (ColorModel.toByte .greyscaleAlpha) depth)
  | .pixRgba depth => .format (FormatBits.make (ColorModel.toByte .rgba) depth)

/-- The code word of `nbits` bits with value `w`; the width tells the encodings apart (30_encoding.md R90). -/
def CodeWord.ofTable (nbits w : Nat) : Option CodeWord :=
  if 2 ^ nbits ≤ w then none
  else if nbits = 32 then some (.command (BitVec.ofNat 32 w))
  else if nbits = 8 then some (.filter (BitVec.ofNat 8 w))
  else if nbits = 16 then some (.format (BitVec.ofNat 16 w))
  else none

/-- The instruction the decoder reads from the table word `w` of `nbits` bits. -/
def decodeTableWord (nbits w : Nat) : Option Instr :=
  match CodeWord.ofTable nbits w with
  | none => none
  | some c =>
    match decode c with
    | .ok i => some i
    | .error _ => none

end Sys2Proof
end

