-- ==== Sys2Proof/Machine/State.lean ====
section
/-! DEFINITION. The state of the block as plain data (10_state.md), the host's inputs (20_memory.md R60 to R70),
the reasons a step can stop, and the state after reset (70_reset_and_hazards.md R200, R201). -/

namespace Sys2Proof.Machine

/-- Sparse data by key in one canonical form: keys strictly rising, and no entry equal to what an unlisted key reads
as (Memory.wf in Machine/Ops.lean). `Memory Byte` is a list of Host.Cell. -/
abbrev Memory (α : Type) := List (Nat × α)

/-- A palette entry: three 8-bit values (10_state.md R37). -/
structure Rgb where
  r : Byte
  g : Byte
  b : Byte
deriving DecidableEq, Repr

/-- Who issues an access. PNGDF serves one bus master (20_memory.md R70). -/
inductive Master where
  /-- the host of 00_scope.md R12 -/
  | host
  /-- any other bus master (93_implementation_defined.md I5) -/
  | second
deriving DecidableEq, Repr

/-- The direction of an access, with the data of a write (20_memory.md R61). -/
inductive BusOp where
  | read
  | write (data : Word)
deriving DecidableEq, Repr

/-- One bus access (20_memory.md R60, R61; `MemRead` and `MemWrite` of 00_scope.md R10). Width and address are free,
so that the accesses the spec leaves out can be written down and refused. -/
structure Access where
  master : Master
  /-- the bus address of the access's first byte -/
  addr : Nat
  /-- the width of the access in bytes; the supported width is 4 -/
  bytes : Nat
  op : BusOp
deriving DecidableEq, Repr

/-- What the outside world does to the block: a bus access, or power-on (70_reset_and_hazards.md R200). -/
inductive Input where
  | access (a : Access)
  | powerOn
deriving DecidableEq, Repr

/-- A MODEL fault (00_scope.md R13, 60_exceptions.md R189), not a hardware error: the operation read a cell that no
host write has set since the last reset. Safe: the chip returns some value no rule fixes, the model stops. -/
inductive Fault where
  /-- DEFILTER and the five filters, or a RAW_DATA read, read RAW[address] unwritten. Safe (log 4). -/
  | rawUnwritten (address : Nat)
  /-- EXTRACT in colour type 3 (and PIX_PALETTE), or a PAL_DATA read, read PAL[index] unwritten. Safe (log 4). -/
  | palUnwritten (index : Nat)
deriving DecidableEq, Repr

/-- Why the model has no step. -/
inductive Refusal where
  /-- An instruction whose meaning is not written yet; raised by no arm of exec. Safe. -/
  | notModelled (mnemonic : String)
  /-- An access to the window that is not 32 bits wide or not at a multiple of 4 (20_memory.md R61). Raised by
  runAccess. Safe (log 6). -/
  | unsupportedAccess
  /-- An access to the window by a second bus master (20_memory.md R70). Raised by runAccess. Safe (log 7). -/
  | secondMaster
deriving DecidableEq, Repr

/-- The whole state of one PNGDF instance with the host side of its interface. -/
structure State where
  /-- ROW_BYTES_MAX and BASE (00_scope.md R7); no step changes them -/
  cfg : Config
  /-- STATUS.ERR, STATUS[0] (10_state.md R24, R42) -/
  err : Bool
  /-- STATUS.PIX_VALID, STATUS[1] (10_state.md R24, R42) -/
  pixValid : Bool
  /-- STATUS.ERR_CODE, STATUS[15:8] (10_state.md R24) -/
  errCode : Byte
  /-- ERR_INFO (10_state.md R25) -/
  errInfo : Word
  /-- FORMAT[15:0]; FORMAT[31:16] is reserved and reads 0 (10_state.md R26) -/
  format : FormatBits
  /-- WIDTH (10_state.md R27) -/
  width : Word
  /-- RAW_ADDR (10_state.md R30) -/
  rawAddr : Word
  /-- RECON_ADDR (10_state.md R32) -/
  reconAddr : Word
  /-- PAL_ADDR[7:0] (10_state.md R34) -/
  palAddr : Byte
  /-- PAL_SIZE[8:0], 0..256 (10_state.md R36) -/
  palSize : BitVec 9
  /-- PIX_INDEX (10_state.md R38) -/
  pixIndex : Word
  /-- PIX_R.VALUE (10_state.md R39) -/
  pixR : Channel
  /-- PIX_G.VALUE (10_state.md R39) -/
  pixG : Channel
  /-- PIX_B.VALUE (10_state.md R39) -/
  pixB : Channel
  /-- PIX_A.VALUE (10_state.md R39) -/
  pixA : Channel
  /-- RAW[0..ROW_BYTES_MAX] with its written bits: a listed byte is a written one (10_state.md R40, R44) -/
  raw : Memory Byte
  /-- RECON[0..ROW_BYTES_MAX-1]: an unlisted byte is 0 (10_state.md R41; 70_reset_and_hazards.md R200) -/
  recon : Memory Byte
  /-- PAL[0..255] with its written bits: a listed entry is a written one (10_state.md R37, R44) -/
  pal : Memory Rgb
  /-- MODEL: the inputs the host has yet to perform, oldest first (20_memory.md R67; log 2) -/
  pending : List Input
  /-- MODEL: the values the block's reads have returned, oldest first (70_reset_and_hazards.md R214; log 2) -/
  reads : List Word
deriving DecidableEq, Repr

/-- The state right after a reset of a block with parameters `cfg`, with nothing for the host to do: every register
0, RECON all zeros, RAW and PAL unwritten (70_reset_and_hazards.md R200, R201). -/
def State.resetOf (cfg : Config) : State where
  cfg := cfg
  err := false
  pixValid := false
  errCode := 0
  errInfo := 0
  format := 0
  width := 0
  rawAddr := 0
  reconAddr := 0
  palAddr := 0
  palSize := 0
  pixIndex := 0
  pixR := 0
  pixG := 0
  pixB := 0
  pixA := 0
  raw := []
  recon := []
  pal := []
  pending := []
  reads := []

/-- The machine right after reset (70_reset_and_hazards.md R200), with the parameters of Config.initial
(DESIGN CHOICE, log 1). -/
def State.reset : State := State.resetOf Config.initial

end Sys2Proof.Machine
end

