-- ==== Sys2Proof/Machine/Ops.lean ====
section
/-! DEFINITION. The named operations over the buffers and the error state: the canonical sparse memory, the reads and
writes of RAW, RECON and PAL (00_scope.md R10), raising an error (60_exceptions.md R181) and the reset, which is the
only return from one (60_exceptions.md R186; 70_reset_and_hazards.md R200). -/

namespace Sys2Proof.Machine

/-! ## The canonical memory -/

/-- The value listed at a key. -/
def Memory.find? {α : Type} : Memory α → Nat → Option α
  | [], _ => none
  | (k, v) :: m, a => if a = k then some v else Memory.find? m a

/-- List `v` at key `a`, keeping the keys strictly rising. -/
def Memory.insert {α : Type} : Memory α → Nat → α → Memory α
  | [], a, v => [(a, v)]
  | (k, w) :: m, a, v =>
    if a < k then (a, v) :: (k, w) :: m
    else if a = k then (a, v) :: m
    else (k, w) :: Memory.insert m a v

/-- Take every entry of key `a` off the list (in canonical form there is at most one). -/
def Memory.erase {α : Type} : Memory α → Nat → Memory α
  | [], _ => []
  | (k, w) :: m, a => if a = k then Memory.erase m a else (k, w) :: Memory.erase m a

/-- What key `a` reads as, where an unlisted key reads as `unlisted` (`none`: it holds no value). -/
def Memory.read {α : Type} (unlisted : Option α) (m : Memory α) (a : Nat) : Option α :=
  match Memory.find? m a with
  | some v => some v
  | none => unlisted

/-- Write `v` at key `a`; writing what an unlisted key reads as takes the entry off the list. -/
def Memory.write {α : Type} [DecidableEq α] (unlisted : Option α) (m : Memory α) (a : Nat) (v : α) : Memory α :=
  if unlisted = some v then Memory.erase m a else Memory.insert m a v

/-- The keys rise strictly, all of them above `low` where `low` is given. -/
def Memory.sorted {α : Type} : Option Nat → Memory α → Bool
  | _, [] => true
  | none, (k, _) :: m => Memory.sorted (some k) m
  | some low, (k, _) :: m => decide (low < k) && Memory.sorted (some k) m

/-- The canonical form: keys strictly rising, and no entry equal to what an unlisted key reads as. -/
def Memory.wf {α : Type} [DecidableEq α] (unlisted : Option α) (m : Memory α) : Bool :=
  Memory.sorted none m && m.all (fun e => decide (unlisted ≠ some e.2))

/-- Every listed key is below `bound`. -/
def Memory.below {α : Type} (bound : Nat) (m : Memory α) : Bool :=
  m.all (fun e => decide (e.1 < bound))

/-! ## The three buffers -/

/-- An unwritten RAW byte holds no value (00_scope.md R13, 70_reset_and_hazards.md R201). -/
def rawUnlisted : Option Byte := none

/-- A RECON byte is 0 until a command writes it (70_reset_and_hazards.md R200). -/
def reconUnlisted : Option Byte := some 0

/-- An unwritten PAL entry holds no value (00_scope.md R13, 70_reset_and_hazards.md R201). -/
def palUnlisted : Option Rgb := none

/-- `RAW[k]`, or `none` where written_RAW[k] = 0 (10_state.md R40, R44). -/
def State.rawByte (s : State) (k : Nat) : Option Byte := Memory.read rawUnlisted s.raw k

/-- `RECON[k]`, which always holds a value (10_state.md R41; 20_memory.md R65). -/
def State.reconByte (s : State) (k : Nat) : Byte := (Memory.read reconUnlisted s.recon k).getD 0

/-- `PAL[k]`, or `none` where written_PAL[k] = 0 (10_state.md R37, R44). -/
def State.palEntry (s : State) (k : Nat) : Option Rgb := Memory.read palUnlisted s.pal k

/-- `RAW[k] <- v; written_RAW[k] <- 1` (20_memory.md R64). -/
def State.setRawByte (k : Nat) (v : Byte) (s : State) : State :=
  { s with raw := Memory.write rawUnlisted s.raw k v }

/-- `PAL[k] <- v; written_PAL[k] <- 1` (20_memory.md R66). -/
def State.setPalEntry (k : Nat) (v : Rgb) (s : State) : State :=
  { s with pal := Memory.write palUnlisted s.pal k v }

/-- RECON with the bytes `row` written from index `k` on. -/
def reconWriteRow (m : Memory Byte) (k : Nat) : List Byte → Memory Byte
  | [] => m
  | v :: row => reconWriteRow (Memory.write reconUnlisted m k v) (k + 1) row

/-- `RECON[0..L-1] <- row`, the bytes from L on unchanged (41_defilter.md R120). -/
def State.setReconRow (row : List Byte) (s : State) : State :=
  { s with recon := reconWriteRow s.recon 0 row }

/-- `RECON[k] <- 0` for every k (40_commands.md R101). -/
def State.clearRecon (s : State) : State := { s with recon := [] }

/-- The `n` bytes `RECON[k..k+n-1]`. -/
def State.reconRow (s : State) (k : Nat) : Nat → List Byte
  | 0 => []
  | n + 1 => s.reconByte k :: s.reconRow (k + 1) n

/-- The `n` bytes `RAW[k..k+n-1]`; the first of them never written is a model fault (00_scope.md R13). -/
def State.rawRow (s : State) (k : Nat) : Nat → Except Fault (List Byte)
  | 0 => .ok []
  | n + 1 =>
    match s.rawByte k with
    | none => .error (.rawUnwritten k)
    | some b =>
      match s.rawRow (k + 1) n with
      | .error f => .error f
      | .ok row => .ok (b :: row)

/-! ## Raising an error, and the reset -/

/-- The error causes of the block (60_exceptions.md R180). -/
inductive ErrorCode where
  | invalidFilter | invalidFormat | rowLength | paletteIndexRange | rawAddrRange | reconAddrRange | badCommand
deriving DecidableEq, Repr

/-- The ERR_CODE of each cause (60_exceptions.md R180). -/
def ErrorCode.toByte : ErrorCode → Byte
  | .invalidFilter => 0x01
  | .invalidFormat => 0x02
  | .rowLength => 0x03
  | .paletteIndexRange => 0x04
  | .rawAddrRange => 0x05
  | .reconAddrRange => 0x06
  | .badCommand => 0x07

/-- `raise Error(code, info)`: the block's one form of taking an exception (60_exceptions.md R181, R185). It records
the error if none is recorded yet, and changes nothing else; there is no pc to save and no mode to change. -/
def State.raiseError (code : ErrorCode) (info : Word) (s : State) : State :=
  if s.err then s else { s with err := true, errCode := code.toByte, errInfo := info }

/-- The reset of 70_reset_and_hazards.md R200, which power-on and the RESET command both perform and which alone
leaves the error state (60_exceptions.md R186). The parameters are not state, and the host's own `pending` and `reads`
are not the block's: they stay (log 2). -/
def State.doReset (s : State) : State :=
  { s with
    err := false, pixValid := false, errCode := 0, errInfo := 0
    format := 0, width := 0, rawAddr := 0, reconAddr := 0, palAddr := 0, palSize := 0, pixIndex := 0
    pixR := 0, pixG := 0, pixB := 0, pixA := 0
    raw := [], recon := [], pal := [] }

/-- A read of the block returns `v` to the host (70_reset_and_hazards.md R214). -/
def State.returnRead (v : Word) (s : State) : State := { s with reads := s.reads ++ [v] }

end Sys2Proof.Machine
end

