-- ==== Sys2Proof/Machine/Operands.lean ====
section
/-! DEFINITION. Operands: the functions derived from FORMAT and WIDTH (00_scope.md R11) and the assembly of sample
fields from RECON (30_encoding.md R86, R87; 42_pixel_extract.md R151, R152). All arithmetic is on exact naturals. -/

namespace Sys2Proof.Machine

/-- `channels(ct)` (00_scope.md R11). -/
def channels : ColorModel → Nat
  | .greyscale => 1
  | .rgb => 3
  | .palette => 1
  | .greyscaleAlpha => 2
  | .rgba => 4

/-- `bits_pp = channels(ct) * d`, bits per pixel (00_scope.md R11). -/
def bitsPerPixel (m : ColorModel) (d : Nat) : Nat := channels m * d

/-- `bpp = max(1, bits_pp div 8)`, the filter byte stride (00_scope.md R11). -/
def bytesPerPixel (m : ColorModel) (d : Nat) : Nat := max 1 (bitsPerPixel m d / 8)

/-- `L = ceil(WIDTH * bits_pp / 8)`, exact (00_scope.md R8, R11). -/
def rowLength (m : ColorModel) (d : Nat) (width : Word) : Nat := (width.toNat * bitsPerPixel m d + 7) / 8

/-- `min(L, 0xFFFF_FFFF)` as a register value (10_state.md R28; 60_exceptions.md R180). -/
def saturate (n : Nat) : Word := BitVec.ofNat 32 (min n 0xFFFFFFFF)

/-- The colour model and depth FORMAT holds, where `fmt_legal(ct, d)` (00_scope.md R11; 30_encoding.md R84). -/
def legalFormat (f : FormatBits) : Option (ColorModel × Nat) :=
  match ColorModel.ofByte (FormatBits.colorType f) with
  | none => none
  | some m =>
    if m.depthLegal (FormatBits.bitDepth f) then some (m, (FormatBits.bitDepth f).toNat) else none

/-- ROW_LEN as a function of FORMAT and WIDTH (10_state.md R28). -/
def rowLenRegister (f : FormatBits) (width : Word) : Word :=
  match legalFormat f with
  | some (m, d) => saturate (rowLength m d width)
  | none => 0

/-- BPP as a function of FORMAT: BPP_BYTES in 3:0, BITS_PP in 14:8 (10_state.md R29). -/
def bppRegister (f : FormatBits) : Word :=
  match legalFormat f with
  | some (m, d) => BitVec.ofNat 32 (bitsPerPixel m d * 2 ^ 8 + bytesPerPixel m d)
  | none => 0

/-- The d-bit field of pixel `n` for d in {1, 2, 4}, most significant block first (30_encoding.md R86). -/
def subByteSample (s : State) (d n : Nat) : Nat :=
  let perByte := 8 / d
  let byteIx := n * d / 8
  let k := n % perByte
  let shift := 8 - d * (k + 1)
  ((s.reconByte byteIx).toNat >>> shift) &&& (2 ^ d - 1)

/-- Channel `j` of pixel `n` as an unsigned value of d bits (42_pixel_extract.md R151; 30_encoding.md R86, R87). -/
def sample (s : State) (m : ColorModel) (d n j : Nat) : Nat :=
  let off := n * (bitsPerPixel m d / 8)
  if d < 8 then subByteSample s d n
  else if d = 8 then (s.reconByte (off + j)).toNat
  else (s.reconByte (off + 2 * j)).toNat * 256 + (s.reconByte (off + 2 * j + 1)).toNat

/-- A sample as a 16-bit channel, zero-extended (30_encoding.md R87; 42_pixel_extract.md R153). -/
def channel (s : State) (m : ColorModel) (d n j : Nat) : Channel := BitVec.ofNat 16 (sample s m d n j)

/-- The synthesised alpha `2^d - 1` (42_pixel_extract.md R154, R156). -/
def opaqueAlpha (d : Nat) : Channel := BitVec.ofNat 16 (2 ^ d - 1)

/-- `in_row(n)`: the last bit of pixel `n` lies within the L bytes of the row (42_pixel_extract.md R152). -/
def inRow (m : ColorModel) (d : Nat) (width : Word) (n : Nat) : Bool :=
  decide ((n + 1) * bitsPerPixel m d ≤ 8 * rowLength m d width)

/-- The word of a palette entry, `{0x00, B, G, R}` (30_encoding.md R88). -/
def Rgb.toWord (e : Rgb) : Word := BitVec.ofNat 32 (e.b.toNat * 2 ^ 16 + e.g.toNat * 2 ^ 8 + e.r.toNat)

/-- The palette entry of a word; bits 31:24 are ignored (10_state.md R35; 20_memory.md R66). -/
def Rgb.ofWord (w : Word) : Rgb :=
  { r := w.extractLsb' 0 8, g := w.extractLsb' 8 8, b := w.extractLsb' 16 8 }

/-- What a write to PAL_SIZE stores: `min(wdata[8:0], 256)` (10_state.md R36). -/
def clampPalSize (w : Word) : BitVec 9 := BitVec.ofNat 9 (min (w.extractLsb' 0 9).toNat 256)

end Sys2Proof.Machine
end

