-- ==== Sys2Proof/Machine/Flags.lean ====
section
/-! DEFINITION. The two status flags (10_state.md R42) and the writes of the pixel registers that go with PIX_VALID
(42_pixel_extract.md R152, R153). -/

namespace Sys2Proof.Machine

/-- STATUS as the host reads it, field by field from bit 31 down: reserved 31:16, ERR_CODE 15:8, reserved 7:2,
PIX_VALID 1, ERR 0 (10_state.md R24). -/
def State.statusWord (s : State) : Word :=
  (0 : BitVec 16) ++ s.errCode ++ (0 : BitVec 6) ++ BitVec.ofBool s.pixValid ++ BitVec.ofBool s.err

/-- A successful EXTRACT: PIX_VALID and the four PIX registers in one step (42_pixel_extract.md R150, R153). -/
def State.setPixel (r g b a : Channel) (s : State) : State :=
  { s with pixValid := true, pixR := r, pixG := g, pixB := b, pixA := a }

/-- `no_pixel()` (42_pixel_extract.md R152). -/
def State.noPixel (s : State) : State :=
  { s with pixValid := false, pixR := 0, pixG := 0, pixB := 0, pixA := 0 }

end Sys2Proof.Machine
end

