-- ==== Sys2Proof/Machine/Filters.lean ====
section
/-! DEFINITION. The five predictors and the row transform (41_defilter.md R121 to R129), and the forward filter of the
inverse law (R130), which no command uses. The predictors compute on exact integers; only the final sum is reduced
modulo 256 (R129; 90_conflicts.md C2). -/

namespace Sys2Proof.Machine

/-- The Paeth predictor on exact signed integers (41_defilter.md R127; 90_conflicts.md C1). -/
def paeth (a b c : Byte) : Byte :=
  let p : Int := (a.toNat : Int) + (b.toNat : Int) - (c.toNat : Int)
  let pa := (p - (a.toNat : Int)).natAbs
  let pb := (p - (b.toNat : Int)).natAbs
  let pc := (p - (c.toNat : Int)).natAbs
  if pa ≤ pb ∧ pa ≤ pc then a else if pb ≤ pc then b else c

/-- The Average predictor `(a + b) div 2`, its sum exact (41_defilter.md R125, R129). -/
def average (a b : Byte) : Byte := BitVec.ofNat 8 ((a.toNat + b.toNat) / 2)

/-- `pred(ft, a, b, c)` for left a, above b and upper_left c (41_defilter.md R121). -/
def predictor : FilterType → Byte → Byte → Byte → Byte
  | .none, _, _, _ => 0
  | .sub, a, _, _ => a
  | .up, _, b, _ => b
  | .average, a, b, _ => average a b
  | .paeth, a, b, c => paeth a b c

/-- Byte `i - bpp` of a row, or 0 before the start of the row (41_defilter.md R121). -/
def strideBack (row : List Byte) (bpp i : Nat) : Byte :=
  if bpp ≤ i then row.getD (i - bpp) 0 else 0

/-- `defilter_row` from the position where `done` holds the bytes already defiltered: each byte of the input is
rebuilt against left (from `done`), above and upper_left (from `prev`); the sum is modulo 256 (41_defilter.md R121). -/
def defilterFrom (ft : FilterType) (bpp : Nat) (prev : List Byte) : List Byte → List Byte → List Byte
  | done, [] => done
  | done, x :: rest =>
    let i := done.length
    let a := strideBack done bpp i
    let b := prev.getD i 0
    let c := strideBack prev bpp i
    defilterFrom ft bpp prev (done ++ [x + predictor ft a b c]) rest

/-- `defilter_row(ft, x, prev, bpp)` (41_defilter.md R121). -/
def defilterRow (ft : FilterType) (bpp : Nat) (prev x : List Byte) : List Byte := defilterFrom ft bpp prev [] x

/-- Byte `i` of the forward filter of `orig` (41_defilter.md R130; PRESUMED by the spec, log 11). -/
def filterByte (ft : FilterType) (bpp : Nat) (prev orig : List Byte) (i : Nat) : Byte :=
  orig.getD i 0 - predictor ft (strideBack orig bpp i) (prev.getD i 0) (strideBack prev bpp i)

/-- `filter_row(ft, orig, prev, bpp)`: the forward filter, a test oracle only (41_defilter.md R130). -/
def filterRow (ft : FilterType) (bpp : Nat) (prev orig : List Byte) : List Byte :=
  (List.range orig.length).map (filterByte ft bpp prev orig)

end Sys2Proof.Machine
end

