-- ==== Sys2Proof/Machine/Defilter.lean ====
section
/-! DEFINITION. The DEFILTER command (41_defilter.md R120) and the five filters it selects by RAW[0] (R122 to R126).
A filter row of the opcode table, taken as an instruction, is the DEFILTER command with that filter type: it has the
gate and the errors of R120 (log 9). -/

namespace Sys2Proof.Machine

/-- What every DEFILTER checks before it reads RAW: the gate of 40_commands.md R103, then INVALID_FORMAT, then
ROW_LENGTH (41_defilter.md R120; 60_exceptions.md R183). `run` gets the colour model and the bit depth. -/
def defilterGate (s : State) (run : ColorModel → Nat → Host.Outcome State Fault Refusal) :
    Host.Outcome State Fault Refusal :=
  if s.err then .next s
  else
    match legalFormat s.format with
    | none => .next (s.raiseError .invalidFormat (s.format.setWidth 32))
    | some (m, d) =>
      if rowLength m d s.width = 0 ∨ s.cfg.rowBytesMax < rowLength m d s.width then
        .next (s.raiseError .rowLength (saturate (rowLength m d s.width)))
      else run m d

/-- The row transform into RECON: RAW[1..L] against RECON[0..L-1] as it stood before (41_defilter.md R120, R121). -/
def defilterInto (ft : FilterType) (s : State) (m : ColorModel) (d : Nat) : Host.Outcome State Fault Refusal :=
  match s.rawRow 1 (rowLength m d s.width) with
  | .error f => .fault f
  | .ok x =>
    .next (s.setReconRow (defilterRow ft (bytesPerPixel m d) (s.reconRow 0 (rowLength m d s.width)) x))

/-- FILTER_NONE (41_defilter.md R122). -/
def execFilterNone (s : State) : Host.Outcome State Fault Refusal := defilterGate s (defilterInto .none s)

/-- FILTER_SUB (41_defilter.md R123). -/
def execFilterSub (s : State) : Host.Outcome State Fault Refusal := defilterGate s (defilterInto .sub s)

/-- FILTER_UP (41_defilter.md R124). -/
def execFilterUp (s : State) : Host.Outcome State Fault Refusal := defilterGate s (defilterInto .up s)

/-- FILTER_AVERAGE (41_defilter.md R125). -/
def execFilterAverage (s : State) : Host.Outcome State Fault Refusal := defilterGate s (defilterInto .average s)

/-- FILTER_PAETH (41_defilter.md R126, R127). -/
def execFilterPaeth (s : State) : Host.Outcome State Fault Refusal := defilterGate s (defilterInto .paeth s)

/-- DEFILTER: the filter-type byte is read after the format and the length are checked; an unwritten one is a model
fault, one above 4 is INVALID_FILTER (41_defilter.md R120). -/
def execDefilter (s : State) : Host.Outcome State Fault Refusal :=
  defilterGate s fun _ _ =>
    match s.rawByte 0 with
    | none => .fault (.rawUnwritten 0)
    | some ft =>
      match FilterType.ofByte ft with
      | none => .next (s.raiseError .invalidFilter (ft.setWidth 32))
      | some .none => execFilterNone s
      | some .sub => execFilterSub s
      | some .up => execFilterUp s
      | some .average => execFilterAverage s
      | some .paeth => execFilterPaeth s

end Sys2Proof.Machine
end

