-- ==== Sys2Proof/Machine/Extract.lean ====
section
/-! DEFINITION. The EXTRACT command (42_pixel_extract.md R150) and its five colour-model variants (R154 to R158). A
format row of the opcode table, taken as an instruction, is the EXTRACT command with that colour type and bit depth:
it has the gate, the errors and the row-bounds test of R150 (log 9). -/

namespace Sys2Proof.Machine

/-- EXTRACT with the format (m, depth): the gate of 40_commands.md R103, then INVALID_FORMAT, then ROW_LENGTH, then
the row-bounds test, then the variant `run`, which gets the bit depth and the pixel index (42_pixel_extract.md R150,
R152; 60_exceptions.md R183). -/
def extractWith (m : ColorModel) (depth : Byte) (s : State)
    (run : Nat → Nat → Host.Outcome State Fault Refusal) : Host.Outcome State Fault Refusal :=
  if s.err then .next s
  else if m.depthLegal depth = false then
    .next (s.raiseError .invalidFormat ((FormatBits.make m.toByte depth).setWidth 32))
  else if s.cfg.rowBytesMax < rowLength m depth.toNat s.width then
    .next (s.raiseError .rowLength (saturate (rowLength m depth.toNat s.width)))
  else if inRow m depth.toNat s.width s.pixIndex.toNat = false then .next s.noPixel
  else run depth.toNat s.pixIndex.toNat

/-- PIX_GREYSCALE: the grey sample in R, G and B, alpha 2^d - 1 (42_pixel_extract.md R154). -/
def execPixGreyscale (depth : Byte) (s : State) : Host.Outcome State Fault Refusal :=
  extractWith .greyscale depth s fun d n =>
    let y := channel s .greyscale d n 0
    .next (s.setPixel y y y (opaqueAlpha d))

/-- PIX_RGB: three samples, alpha 2^d - 1 (42_pixel_extract.md R156). -/
def execPixRgb (depth : Byte) (s : State) : Host.Outcome State Fault Refusal :=
  extractWith .rgb depth s fun d n =>
    .next (s.setPixel (channel s .rgb d n 0) (channel s .rgb d n 1) (channel s .rgb d n 2) (opaqueAlpha d))

/-- PIX_PALETTE: the index sample looks up PAL; an index at or past PAL_SIZE is PALETTE_INDEX_RANGE, an unwritten
entry a model fault; alpha is 255 for every depth (42_pixel_extract.md R158; 00_scope.md R13). -/
def execPixPalette (depth : Byte) (s : State) : Host.Outcome State Fault Refusal :=
  extractWith .palette depth s fun d n =>
    let ix := sample s .palette d n 0
    if s.palSize.toNat ≤ ix then .next (s.raiseError .paletteIndexRange (BitVec.ofNat 32 ix))
    else
      match s.palEntry ix with
      | none => .fault (.palUnwritten ix)
      | some e => .next (s.setPixel (e.r.setWidth 16) (e.g.setWidth 16) (e.b.setWidth 16) 255)

/-- PIX_GREYSCALE_ALPHA: the grey sample in R, G and B, alpha from the stream (42_pixel_extract.md R155). -/
def execPixGreyscaleAlpha (depth : Byte) (s : State) : Host.Outcome State Fault Refusal :=
  extractWith .greyscaleAlpha depth s fun d n =>
    let y := channel s .greyscaleAlpha d n 0
    .next (s.setPixel y y y (channel s .greyscaleAlpha d n 1))

/-- PIX_RGBA: four samples (42_pixel_extract.md R157). -/
def execPixRgba (depth : Byte) (s : State) : Host.Outcome State Fault Refusal :=
  extractWith .rgba depth s fun d n =>
    .next (s.setPixel (channel s .rgba d n 0) (channel s .rgba d n 1) (channel s .rgba d n 2) (channel s .rgba d n 3))

/-- EXTRACT: the variant is picked from COLOR_TYPE alone and then reads BIT_DEPTH (42_pixel_extract.md R150;
30_encoding.md R85); a colour type of no model is INVALID_FORMAT (30_encoding.md R84). -/
def execExtract (s : State) : Host.Outcome State Fault Refusal :=
  match ColorModel.ofByte (FormatBits.colorType s.format) with
  | some .greyscale => execPixGreyscale (FormatBits.bitDepth s.format) s
  | some .rgb => execPixRgb (FormatBits.bitDepth s.format) s
  | some .palette => execPixPalette (FormatBits.bitDepth s.format) s
  | some .greyscaleAlpha => execPixGreyscaleAlpha (FormatBits.bitDepth s.format) s
  | some .rgba => execPixRgba (FormatBits.bitDepth s.format) s
  | none => .next (s.raiseError .invalidFormat (s.format.setWidth 32))

end Sys2Proof.Machine
end

