-- ==== Sys2Proof/Machine/Housekeeping.lean ====
section
/-! DEFINITION. The three commands that compute nothing: NOP, CLEAR_PREV and RESET (40_commands.md R100 to R102), each
with the gate of R103 where it has one. -/

namespace Sys2Proof.Machine

/-- NOP: no effect, also while STATUS.ERR = 1 (40_commands.md R100). -/
def execNop (s : State) : Host.Outcome State Fault Refusal := .next s

/-- CLEAR_PREV: every RECON byte becomes 0; ignored while STATUS.ERR = 1 (40_commands.md R101, R103). -/
def execClearPrev (s : State) : Host.Outcome State Fault Refusal :=
  if s.err then .next s else .next s.clearRecon

/-- RESET: the reset of 70_reset_and_hazards.md R200, whether STATUS.ERR is 0 or 1 (40_commands.md R102). -/
def execReset (s : State) : Host.Outcome State Fault Refusal := .next s.doReset

end Sys2Proof.Machine
end

