-- ==== Sys2Proof/Machine/Dispatch.lean ====
section
/-! DEFINITION. One arm per instruction: the meaning it has. -/

namespace Sys2Proof.Machine

/-- The meaning of an instruction: one direct call per row of spec/opcode_table.json. -/
def exec (i : Instr) (s : State) : Host.Outcome State Fault Refusal :=
  match i with
  | .nop => Sys2Proof.Machine.execNop s
  | .clearPrev => Sys2Proof.Machine.execClearPrev s
  | .defilter => Sys2Proof.Machine.execDefilter s
  | .extract => Sys2Proof.Machine.execExtract s
  | .reset => Sys2Proof.Machine.execReset s
  | .filterNone => Sys2Proof.Machine.execFilterNone s
  | .filterSub => Sys2Proof.Machine.execFilterSub s
  | .filterUp => Sys2Proof.Machine.execFilterUp s
  | .filterAverage => Sys2Proof.Machine.execFilterAverage s
  | .filterPaeth => Sys2Proof.Machine.execFilterPaeth s
  | .pixGreyscale depth => Sys2Proof.Machine.execPixGreyscale depth s
  | .pixRgb depth => Sys2Proof.Machine.execPixRgb depth s
  | .pixPalette depth => Sys2Proof.Machine.execPixPalette depth s
  | .pixGreyscaleAlpha depth => Sys2Proof.Machine.execPixGreyscaleAlpha depth s
  | .pixRgba depth => Sys2Proof.Machine.execPixRgba depth s

end Sys2Proof.Machine
end

