-- ==== Sys2Proof/Machine/Bus.lean ====
section
/-! DEFINITION. The register window: address decode (20_memory.md R61, R62, R70), the registers (10_state.md R22 to
R46), the data ports (20_memory.md R64 to R66) and the CMD write that runs a command (40_commands.md R103). -/

namespace Sys2Proof.Machine

/-- The registers of the window (10_state.md R22), with one name for the reserved offsets 0x4C..0x7C (R45). -/
inductive Reg where
  | cmd | status | errInfo | format | width | rowLen | bpp | rawAddr | rawData | reconAddr | reconData
  | palAddr | palData | palSize | pixIndex | pixR | pixG | pixB | pixA | reserved
deriving DecidableEq, Repr

/-- The offset of a register; the reserved name gives the first reserved offset (10_state.md R22). -/
def Reg.offset : Reg → Nat
  | .cmd => 0x00
  | .status => 0x04
  | .errInfo => 0x08
  | .format => 0x0C
  | .width => 0x10
  | .rowLen => 0x14
  | .bpp => 0x18
  | .rawAddr => 0x1C
  | .rawData => 0x20
  | .reconAddr => 0x24
  | .reconData => 0x28
  | .palAddr => 0x2C
  | .palData => 0x30
  | .palSize => 0x34
  | .pixIndex => 0x38
  | .pixR => 0x3C
  | .pixG => 0x40
  | .pixB => 0x44
  | .pixA => 0x48
  | .reserved => 0x4C

/-- The register at an offset of the window (10_state.md R22, R45). -/
def Reg.ofOffset : Nat → Reg
  | 0x00 => .cmd
  | 0x04 => .status
  | 0x08 => .errInfo
  | 0x0C => .format
  | 0x10 => .width
  | 0x14 => .rowLen
  | 0x18 => .bpp
  | 0x1C => .rawAddr
  | 0x20 => .rawData
  | 0x24 => .reconAddr
  | 0x28 => .reconData
  | 0x2C => .palAddr
  | 0x30 => .palData
  | 0x34 => .palSize
  | 0x38 => .pixIndex
  | 0x3C => .pixR
  | 0x40 => .pixG
  | 0x44 => .pixB
  | 0x48 => .pixA
  | _ => .reserved

/-! ## The data ports -/

/-- A read of RAW_DATA (20_memory.md R64). -/
def readRawData (s : State) : Host.Outcome State Fault Refusal :=
  if s.cfg.rowBytesMax < s.rawAddr.toNat then
    .next ((s.raiseError .rawAddrRange s.rawAddr).returnRead 0)
  else
    match s.rawByte s.rawAddr.toNat with
    | none => .fault (.rawUnwritten s.rawAddr.toNat)
    | some b => .next ({ s with rawAddr := s.rawAddr + 1 }.returnRead (b.setWidth 32))

/-- A write of `w` to RAW_DATA (20_memory.md R64). -/
def writeRawData (w : Word) (s : State) : Host.Outcome State Fault Refusal :=
  if s.cfg.rowBytesMax < s.rawAddr.toNat then .next (s.raiseError .rawAddrRange s.rawAddr)
  else .next { s.setRawByte s.rawAddr.toNat (w.extractLsb' 0 8) with rawAddr := s.rawAddr + 1 }

/-- A read of RECON_DATA (20_memory.md R65). -/
def readReconData (s : State) : Host.Outcome State Fault Refusal :=
  if s.cfg.rowBytesMax ≤ s.reconAddr.toNat then
    .next ((s.raiseError .reconAddrRange s.reconAddr).returnRead 0)
  else
    .next ({ s with reconAddr := s.reconAddr + 1 }.returnRead ((s.reconByte s.reconAddr.toNat).setWidth 32))

/-- A read of PAL_DATA (20_memory.md R66). -/
def readPalData (s : State) : Host.Outcome State Fault Refusal :=
  match s.palEntry s.palAddr.toNat with
  | none => .fault (.palUnwritten s.palAddr.toNat)
  | some e => .next ({ s with palAddr := s.palAddr + 1 }.returnRead e.toWord)

/-- A write of `w` to PAL_DATA (20_memory.md R66). -/
def writePalData (w : Word) (s : State) : Host.Outcome State Fault Refusal :=
  .next { s.setPalEntry s.palAddr.toNat (Rgb.ofWord w) with palAddr := s.palAddr + 1 }

/-! ## The registers -/

/-- A CMD write (40_commands.md R103): the command the whole word names, or BAD_COMMAND, which is recorded only while
STATUS.ERR = 0 (30_encoding.md R81; 60_exceptions.md R181, R182). Each command's own meaning holds its ERR gate. -/
def writeCmd (w : Word) (s : State) : Host.Outcome State Fault Refusal :=
  match decode (.command w) with
  | .ok i => exec i s
  | .error _ => .next (s.raiseError .badCommand w)

/-- A 32-bit read of a register (10_state.md R23 to R39, R45, R46). -/
def readRegister (r : Reg) (s : State) : Host.Outcome State Fault Refusal :=
  match r with
  | .cmd => .next (s.returnRead 0)
  | .status => .next (s.returnRead s.statusWord)
  | .errInfo => .next (s.returnRead s.errInfo)
  | .format => .next (s.returnRead (s.format.setWidth 32))
  | .width => .next (s.returnRead s.width)
  | .rowLen => .next (s.returnRead (rowLenRegister s.format s.width))
  | .bpp => .next (s.returnRead (bppRegister s.format))
  | .rawAddr => .next (s.returnRead s.rawAddr)
  | .rawData => readRawData s
  | .reconAddr => .next (s.returnRead s.reconAddr)
  | .reconData => readReconData s
  | .palAddr => .next (s.returnRead (s.palAddr.setWidth 32))
  | .palData => readPalData s
  | .palSize => .next (s.returnRead (s.palSize.setWidth 32))
  | .pixIndex => .next (s.returnRead s.pixIndex)
  | .pixR => .next (s.returnRead (s.pixR.setWidth 32))
  | .pixG => .next (s.returnRead (s.pixG.setWidth 32))
  | .pixB => .next (s.returnRead (s.pixB.setWidth 32))
  | .pixA => .next (s.returnRead (s.pixA.setWidth 32))
  | .reserved => .next (s.returnRead 0)

/-- A 32-bit write of `w` to a register (10_state.md R23 to R39, R45, R46; 40_commands.md R104). -/
def writeRegister (r : Reg) (w : Word) (s : State) : Host.Outcome State Fault Refusal :=
  match r with
  | .cmd => writeCmd w s
  | .status => .next s
  | .errInfo => .next s
  | .format => .next { s with format := w.extractLsb' 0 16 }
  | .width => .next { s with width := w }
  | .rowLen => .next s
  | .bpp => .next s
  | .rawAddr => .next { s with rawAddr := w }
  | .rawData => writeRawData w s
  | .reconAddr => .next { s with reconAddr := w }
  | .reconData => .next s
  | .palAddr => .next { s with palAddr := w.extractLsb' 0 8 }
  | .palData => writePalData w s
  | .palSize => .next { s with palSize := clampPalSize w }
  | .pixIndex => .next { s with pixIndex := w }
  | .pixR => .next s
  | .pixG => .next s
  | .pixB => .next s
  | .pixA => .next s
  | .reserved => .next s

/-! ## The bus -/

/-- Some byte of the access lies in the window BASE .. BASE + 0x7F (20_memory.md R62). -/
def Access.touches (c : Config) (a : Access) : Bool :=
  decide (c.base < a.addr + a.bytes) && decide (a.addr < c.base + 0x80)

/-- The access is 32 bits wide at an offset that is a multiple of 4 (20_memory.md R61). -/
def Access.supported (c : Config) (a : Access) : Bool :=
  decide (a.bytes = 4) && decide (c.base ≤ a.addr) && decide ((a.addr - c.base) % 4 = 0)

/-- One bus access (20_memory.md R60 to R62). The block does not see an access outside its window: nothing happens and
the block returns no value (log 5, DESIGN CHOICE). An access to the window by a second master, and one of another
width or alignment, has no step (R61, R70). -/
def runAccess (a : Access) (s : State) : Host.Outcome State Fault Refusal :=
  if a.touches s.cfg = false then .next s
  else
    match a.master with
    | .second => .refused .secondMaster
    | .host =>
      if a.supported s.cfg = false then .refused .unsupportedAccess
      else
        match a.op with
        | .read => readRegister (Reg.ofOffset (a.addr - s.cfg.base)) s
        | .write w => writeRegister (Reg.ofOffset (a.addr - s.cfg.base)) w s

/-- One input of the outside world: an access, or power-on (70_reset_and_hazards.md R200). -/
def runInput (i : Input) (s : State) : Host.Outcome State Fault Refusal :=
  match i with
  | .access a => runAccess a s
  | .powerOn => .next s.doReset

/-- One atomic step (00_scope.md R14; 20_memory.md R60, R67): the oldest pending input, taken off the list and
performed whole; with none pending the block is idle and keeps all its state (60_exceptions.md R190). -/
def runPending (s : State) : Host.Outcome State Fault Refusal :=
  match s.pending with
  | [] => .next s
  | i :: rest => runInput i { s with pending := rest }

/-- `MemWrite(BASE + offset(r), 4, w)` by the host (00_scope.md R10). -/
def writeAccess (c : Config) (r : Reg) (w : Word) : Access :=
  { master := .host, addr := c.base + r.offset, bytes := 4, op := .write w }

/-- `MemRead(BASE + offset(r), 4)` by the host (00_scope.md R10). -/
def readAccess (c : Config) (r : Reg) : Access :=
  { master := .host, addr := c.base + r.offset, bytes := 4, op := .read }

/-! ## Loading an instruction -/

/-- The error state cleared: a DEFILTER or an EXTRACT decodes its byte or field only while STATUS.ERR = 0
(40_commands.md R103). -/
def State.noError (s : State) : State := { s with err := false, errCode := 0, errInfo := 0 }

/-- `s` with the host's next access writing the command word `w` to CMD. -/
def State.loadCommand (w : Word) (s : State) : State :=
  { s with pending := .access (writeAccess s.cfg .cmd w) :: s.pending }

/-- `s` with the filter byte `b` where a DEFILTER decodes it: no error recorded, a greyscale row of one 8-bit pixel
(so L = 1 and R120 reaches RAW[0]), and RAW[0..1] the scanline `b`, 0 (log 3). -/
def State.holdFilter (b : Byte) (s : State) : State :=
  State.setRawByte 1 0 (State.setRawByte 0 b
    { s.noError with format := FormatBits.make ColorModel.greyscale.toByte 8, width := 1 })

/-- `s` with the format field `f` where an EXTRACT decodes it: no error recorded, FORMAT = `f`, and pixel 0 of a row
of one pixel asked for, so that R150 reaches the variant (log 3). -/
def State.holdFormat (f : FormatBits) (s : State) : State :=
  { s.noError with format := f, width := 1, pixIndex := 0 }

/-- `s` with the code word `c` where the next step decodes it: the host's next access writes the command word, or the
DEFILTER or EXTRACT that decodes the filter byte or the format field. -/
def State.loadCodeWord (c : CodeWord) (s : State) : State :=
  match c with
  | .command w => s.loadCommand w
  | .filter b => (s.holdFilter b).loadCommand 0x00000002
  | .format f => (s.holdFormat f).loadCommand 0x00000003

end Sys2Proof.Machine
end

