-- ==== Sys2Proof/Machine/Step.lean ====
section
/-! DEFINITION. The step of the machine, and the state in which the next step runs a given instruction. -/

namespace Sys2Proof.Machine

/-- One step: the host's oldest pending input (Machine/Bus.lean). -/
def step (s : State) : Host.Outcome State Fault Refusal := runPending s

/-- `s` with the table word `w` of `nbits` bits where the next step decodes it: a command word as the host's next CMD
write, a filter byte in RAW[0] or a format field in FORMAT with the command that decodes it pending (log 3). A width
or value that is no code word leaves `s` as it is. -/
def State.withFetchWord (s : State) (nbits w : Nat) : State :=
  match CodeWord.ofTable nbits w with
  | none => s
  | some c => s.loadCodeWord c

end Sys2Proof.Machine
end

