-- ==== Sys2Proof/Machine/HostProgram.lean ====
section
/-! DEFINITION. The host side as the spec writes it: the notation of host programs and its pseudo-instructions
(30_encoding.md R91, R92), the decode loop of one sub-image (70_reset_and_hazards.md R204), and the host's mapping of
error codes to the source's kinds (60_exceptions.md R191). The block itself uses none of it. -/

namespace Sys2Proof.Machine

/-- One line of a host program, one bus access (30_encoding.md R91). The `=> value` of a read is what the rules give
for it, and no part of the access. -/
inductive HostLine where
  | wr (r : Reg) (value : Word)
  | rd (r : Reg)
  /-- `cmd <MNEMONIC>`: a CMD write of that command's word -/
  | cmd (w : Word)
deriving DecidableEq, Repr

/-- The access of a line, `(W|R, offset, data)` at BASE (30_encoding.md R91). -/
def HostLine.access (c : Config) : HostLine → Access
  | .wr r value => writeAccess c r value
  | .rd r => readAccess c r
  | .cmd w => writeAccess c .cmd w

/-- The pseudo-instructions (30_encoding.md R92). -/
inductive Pseudo where
  | fmt (ct d : Byte)
  | raw (bytes : List Byte)
  | pal (entries : List Rgb)
  | row (bytes : List Byte)
  | px (n : Word)
  | dump (n : Nat)
deriving DecidableEq, Repr

/-- `raw b0, …, bm` (30_encoding.md R92). -/
def rawLines (bytes : List Byte) : List HostLine :=
  .wr .rawAddr 0 :: bytes.map fun b => .wr .rawData (b.setWidth 32)

/-- The five reads of `px` (30_encoding.md R92). -/
def pixelReads : List HostLine := [.rd .status, .rd .pixR, .rd .pixG, .rd .pixB, .rd .pixA]

/-- The expansion of a pseudo-instruction (30_encoding.md R92). -/
def Pseudo.expand : Pseudo → List HostLine
  | .fmt ct d => [.wr .format (BitVec.ofNat 32 (ct.toNat * 256 + d.toNat))]
  | .raw bytes => rawLines bytes
  | .pal entries =>
    (.wr .palAddr 0 :: entries.map fun e => .wr .palData e.toWord)
      ++ [.wr .palSize (BitVec.ofNat 32 entries.length)]
  | .row bytes => rawLines bytes ++ [.cmd 0x00000002]
  | .px n => [.wr .pixIndex n, .cmd 0x00000003] ++ pixelReads
  | .dump n => .wr .reconAddr 0 :: List.replicate n (.rd .reconData)

/-- A host program as the inputs of the machine, in program order (20_memory.md R67). -/
def hostInputs (c : Config) (lines : List HostLine) : List Input := lines.map fun l => .access (l.access c)

/-- One row of the decode loop: load RAW, DEFILTER, read STATUS, then extract each pixel of the row
(70_reset_and_hazards.md R204). -/
def decodeRow (width : Nat) (scanline : List Byte) : List HostLine :=
  rawLines scanline ++ [.cmd 0x00000002, .rd .status]
    ++ (List.range width).flatMap fun n => Pseudo.expand (.px (BitVec.ofNat 32 n))

/-- The decode loop of one sub-image of the given width with one scanline (filter byte and data) per row; an empty
sub-image issues nothing (70_reset_and_hazards.md R204, R206, R207). Written out without the host's stop on ERR = 1
(log 14). -/
def decodeSubImage (width : Nat) (scanlines : List (List Byte)) : List HostLine :=
  if width = 0 ∨ scanlines = [] then []
  else [.wr .width (BitVec.ofNat 32 width), .cmd 0x00000001] ++ scanlines.flatMap (decodeRow width)

/-- What the host reports for a recorded error (60_exceptions.md R191). -/
inductive HostErrorKind where
  /-- the source's `InvalidArguments` -/
  | invalidArguments
  /-- a contract violation of the host, for which the source has no kind -/
  | contractViolation
  /-- the hard-failure policy of decision D20 -/
  | hardFailure
deriving DecidableEq, Repr

/-- The host's mapping of error causes (60_exceptions.md R191). -/
def ErrorCode.hostKind : ErrorCode → HostErrorKind
  | .invalidFilter => .invalidArguments
  | .invalidFormat => .invalidArguments
  | .paletteIndexRange => .hardFailure
  | .rowLength => .contractViolation
  | .rawAddrRange => .contractViolation
  | .reconAddrRange => .contractViolation
  | .badCommand => .contractViolation

end Sys2Proof.Machine
end

