-- ==== Sys2Proof/Safety.lean ====
section
/-! DEFINITION. The terms the claims use: the invariant of the block, the state in which the host's next access is a
given one, and the error record. -/

namespace Sys2Proof.Machine

/-- `s` with a 32-bit read by the host at window offset `off` as the next access, before those already pending. -/
def State.thenRead (off : Nat) (s : State) : State :=
  { s with pending := .access { master := .host, addr := s.cfg.base + off, bytes := 4, op := .read } :: s.pending }

/-- `s` with a 32-bit write of `w` by the host at window offset `off` as the next access. -/
def State.thenWrite (off : Nat) (w : Word) (s : State) : State :=
  { s with pending := .access { master := .host, addr := s.cfg.base + off, bytes := 4, op := .write w } :: s.pending }

/-- `s` with one more value returned to the host and nothing else changed. -/
def State.returned (v : Word) (s : State) : State := { s with reads := s.reads ++ [v] }

/-- `s` with ERR = 1 and the given ERR_CODE and ERR_INFO, and nothing else changed (60_exceptions.md R181). -/
def State.recorded (code : Byte) (info : Word) (s : State) : State :=
  { s with err := true, errCode := code, errInfo := info }

/-- The first pending input is a host write to window offset `off` of a word that `ws` holds of. -/
def State.nextIsWrite (off : Nat) (ws : Word → Prop) (s : State) : Prop :=
  ∃ w rest, ws w ∧ s.pending =
    .access { master := .host, addr := s.cfg.base + off, bytes := 4, op := .write w } :: rest

/-- The first pending input is a host read at window offset `off`. -/
def State.nextIsRead (off : Nat) (s : State) : Prop :=
  ∃ rest, s.pending = .access { master := .host, addr := s.cfg.base + off, bytes := 4, op := .read } :: rest

/-- The first pending input is power-on. -/
def State.nextIsPowerOn (s : State) : Prop := ∃ rest, s.pending = .powerOn :: rest

/-- The first pending input is a reset: power-on or the RESET command (70_reset_and_hazards.md R200). -/
def State.nextIsReset (s : State) : Prop := s.nextIsPowerOn ∨ s.nextIsWrite 0x00 (· = 0x00000004)

/-- What a DEFILTER needs to run to its end apart from its filter byte: no error recorded, FORMAT the legal pair
(m, d), a row of length 1 .. ROW_BYTES_MAX, and every data byte RAW[1..L] written (41_defilter.md R120; 00_scope.md R13). -/
structure State.RowReady (s : State) (m : ColorModel) (d : Nat) : Prop where
  no_error : s.err = false
  legal : legalFormat s.format = some (m, d)
  not_empty : 1 ≤ rowLength m d s.width
  fits : rowLength m d s.width ≤ s.cfg.rowBytesMax
  written : ∀ k, 1 ≤ k → k ≤ rowLength m d s.width → s.rawByte k ≠ none

/-- What an EXTRACT with the format (m, depth) needs to reach its variant: no error recorded, a legal depth, a row
that fits, and the pixel in the row (42_pixel_extract.md R150, R152). -/
structure State.PixelReady (s : State) (m : ColorModel) (depth : Byte) : Prop where
  no_error : s.err = false
  legal : depth.toNat ∈ m.legalDepths
  fits : rowLength m depth.toNat s.width ≤ s.cfg.rowBytesMax
  in_row : (s.pixIndex.toNat + 1) * bitsPerPixel m depth.toNat ≤ 8 * rowLength m depth.toNat s.width

/-- The invariant, part by part: what holds of the state after reset and is kept by every step. It rules out states
that no run reaches (a register beyond its legal values, a buffer in a form that is not canonical). -/
structure State.Inv (s : State) : Prop where
  /-- the parameters are within the bounds of 00_scope.md R7 -/
  cfg_wf : s.cfg.wf = true
  /-- RAW is canonical -/
  raw_wf : Memory.wf rawUnlisted s.raw = true
  /-- RECON is canonical: no byte 0 is listed -/
  recon_wf : Memory.wf reconUnlisted s.recon = true
  /-- PAL is canonical -/
  pal_wf : Memory.wf palUnlisted s.pal = true
  /-- RAW has ROW_BYTES_MAX + 1 bytes (10_state.md R40) -/
  raw_below : Memory.below (s.cfg.rowBytesMax + 1) s.raw = true
  /-- RECON has ROW_BYTES_MAX bytes (10_state.md R41) -/
  recon_below : Memory.below s.cfg.rowBytesMax s.recon = true
  /-- PAL has 256 entries (10_state.md R37) -/
  pal_below : Memory.below 256 s.pal = true
  /-- ERR_CODE and ERR_INFO are 0 while ERR = 0 (10_state.md R24, R25) -/
  no_error : s.err = false → s.errCode = 0 ∧ s.errInfo = 0
  /-- with ERR = 1, ERR_CODE is one of 0x01..0x07 (60_exceptions.md R180) -/
  error_code : s.err = true → 1 ≤ s.errCode.toNat ∧ s.errCode.toNat ≤ 7
  /-- PAL_SIZE is 0..256 (10_state.md R36) -/
  pal_size : s.palSize.toNat ≤ 256
  /-- with PIX_VALID = 0 the PIX registers are 0 (42_pixel_extract.md R152; 70_reset_and_hazards.md R200) -/
  no_pixel : s.pixValid = false → s.pixR = 0 ∧ s.pixG = 0 ∧ s.pixB = 0 ∧ s.pixA = 0

end Sys2Proof.Machine
end

