-- ==== Sys2Proof/WellFormed.lean ====
section
/-! DEFINITION. Which instructions are well formed: a format field's BIT_DEPTH is one that table LEGAL lists for its
colour type (30_encoding.md R84). Commands and filter bytes have no operand and are always well formed. -/

namespace Sys2Proof

/-- The check on an instruction's fields (30_encoding.md R84). -/
def Instr.wellFormed : Instr → Bool
  | .nop => true
  | .clearPrev => true
  | .defilter => true
  | .extract => true
  | .reset => true
  | .filterNone => true
  | .filterSub => true
  | .filterUp => true
  | .filterAverage => true
  | .filterPaeth => true
  | .pixGreyscale depth => ColorModel.depthLegal .greyscale depth
  | .pixRgb depth => ColorModel.depthLegal .rgb depth
  | .pixPalette depth => ColorModel.depthLegal .palette depth
  | .pixGreyscaleAlpha depth => ColorModel.depthLegal .greyscaleAlpha depth
  | .pixRgba depth => ColorModel.depthLegal .rgba depth

end Sys2Proof
end

