-- ==== Sys2Proof/Certificates/Slice0/Obligations.lean ====
section
/-! DEFINITION. The statements for the provers. Each docstring names the rule of spec/ it formalises. `s.RowReady`,
`s.PixelReady`, `s.recorded`, `s.thenRead` and `s.thenWrite` are in Safety.lean. An equation `t = { s with … }` is the
frame: every field not named is unchanged. -/

open Sys2Proof Sys2Proof.Machine

/-! ## The three encodings -/

/-- 30_encoding.md R80: a command word is matched on all 32 bits. -/
def Obligations.CommandWordsMatchAllBits : Prop :=
  decode (.command 0x00000000) = .ok .nop ∧
  decode (.command 0x00000001) = .ok .clearPrev ∧
  decode (.command 0x00000002) = .ok .defilter ∧
  decode (.command 0x00000003) = .ok .extract ∧
  decode (.command 0x00000004) = .ok .reset ∧
  ∀ w : Word, 5 ≤ w.toNat → decode (.command w) = .error (.badCommand w)

/-- 30_encoding.md R82 and R83: what each filter byte and each COLOR_TYPE names, on words written out bit by bit. The
numerals of the filters: log 10. -/
def Obligations.SpecWordsDecode : Prop :=
  decode (.filter 0b00000000) = .ok .filterNone ∧
  decode (.filter 0b00000001) = .ok .filterSub ∧
  decode (.filter 0b00000010) = .ok .filterUp ∧
  decode (.filter 0b00000011) = .ok .filterAverage ∧
  decode (.filter 0b00000100) = .ok .filterPaeth ∧
  decode (.filter 0b00000101) = .error (.invalidFilter 5) ∧
  decode (.filter 0b11111111) = .error (.invalidFilter 255) ∧
  decode (.format 0b0000000000000010) = .ok (.pixGreyscale 2) ∧
  decode (.format 0b0000001000010000) = .ok (.pixRgb 16) ∧
  decode (.format 0b0000001100000100) = .ok (.pixPalette 4) ∧
  decode (.format 0b0000010000001000) = .ok (.pixGreyscaleAlpha 8) ∧
  decode (.format 0b0000011000010000) = .ok (.pixRgba 16) ∧
  decode (.format 0b0000000100001000) = .error (.invalidColorType 1)

/-- 30_encoding.md R80, R82, R83: every well-formed instruction is what its own code word decodes to. The numerals of
the filters: log 10. -/
def Obligations.DecodeEncodeRoundTrip : Prop :=
  ∀ i : Instr, i.wellFormed = true → decode (encode i) = .ok i

/-- 30_encoding.md R80, R82, R83, R90: each instruction has one code word, so no two instructions share one and a
decoded word loses no bit. The numerals of the filters: log 10; that an illegal depth decodes: log 8. -/
def Obligations.DecodedWordsAreCanonical : Prop :=
  ∀ (c : CodeWord) (i : Instr), decode c = .ok i → encode i = c

/-- 30_encoding.md R84: `fmt_legal` holds exactly for the 15 listed pairs, with the listed bits_pp and bpp, and on any
other pair DEFILTER and EXTRACT raise INVALID_FORMAT. -/
def Obligations.LegalityTable : Prop :=
  (∀ ct d : Byte, legalFormat (ct ++ d) ≠ none ↔
    (ct.toNat, d.toNat) ∈ [(0, 1), (0, 2), (0, 4), (0, 8), (0, 16), (2, 8), (2, 16), (3, 1), (3, 2), (3, 4), (3, 8),
      (4, 8), (4, 16), (6, 8), (6, 16)]) ∧
  (∀ row ∈ [((0 : Byte), (1 : Byte), ColorModel.greyscale, 1, 1), (0, 2, .greyscale, 2, 1), (0, 4, .greyscale, 4, 1),
      (0, 8, .greyscale, 8, 1), (0, 16, .greyscale, 16, 2), (2, 8, .rgb, 24, 3), (2, 16, .rgb, 48, 6),
      (3, 1, .palette, 1, 1), (3, 2, .palette, 2, 1), (3, 4, .palette, 4, 1), (3, 8, .palette, 8, 1),
      (4, 8, .greyscaleAlpha, 16, 2), (4, 16, .greyscaleAlpha, 32, 4), (6, 8, .rgba, 32, 4), (6, 16, .rgba, 64, 8)],
    legalFormat (row.1 ++ row.2.1) = some (row.2.2.1, row.2.1.toNat) ∧
    channels row.2.2.1 * row.2.1.toNat = row.2.2.2.1 ∧
    bitsPerPixel row.2.2.1 row.2.1.toNat = row.2.2.2.1 ∧
    bytesPerPixel row.2.2.1 row.2.1.toNat = row.2.2.2.2) ∧
  (∀ s : State, s.err = false → legalFormat s.format = none →
    exec .defilter s = .next (s.recorded 0x02 (s.format.setWidth 32)) ∧
    exec .extract s = .next (s.recorded 0x02 (s.format.setWidth 32)))

/-- 00_scope.md R11: the ranges of bits_pp, bpp and L, and L as the ceiling of WIDTH * bits_pp / 8. -/
def Obligations.RowLengthIsExactCeiling : Prop :=
  ∀ (f : FormatBits) (m : ColorModel) (d : Nat) (width : Word), legalFormat f = some (m, d) →
    1 ≤ bitsPerPixel m d ∧ bitsPerPixel m d ≤ 64 ∧
    bytesPerPixel m d ∈ [1, 2, 3, 4, 6, 8] ∧
    width.toNat * bitsPerPixel m d ≤ 8 * rowLength m d width ∧
    8 * rowLength m d width < width.toNat * bitsPerPixel m d + 8 ∧
    rowLength m d width ≤ 2 ^ 35

/-! ## A step runs the decoded instruction -/

/-- 40_commands.md R103, 20_memory.md R60: a CMD write runs the command its word decodes to, whole, in one step, on
the state with that access taken off the pending list. -/
def Obligations.StepRunsDecodedCommand : Prop :=
  ∀ (s : State) (w : Word) (i : Instr), decode (.command w) = .ok i → step (s.thenWrite 0x00 w) = exec i s

/-- 41_defilter.md R120, 30_encoding.md R82: DEFILTER runs the filter RAW[0] decodes to. The numerals of the filters:
log 10. That the two are equal at every state (ERR = 1, an illegal format, a bad length) is the model's choice that a
filter row is the whole DEFILTER (log 9, DESIGN CHOICE). -/
def Obligations.DefilterRunsDecodedFilter : Prop :=
  ∀ (s : State) (b : Byte) (i : Instr), s.rawByte 0 = some b → decode (.filter b) = .ok i →
    exec .defilter s = exec i s

/-- 30_encoding.md R85: EXTRACT picks its variant from COLOR_TYPE alone, and the variant reads BIT_DEPTH. That the two
are equal at every state (ERR = 1, an illegal depth) is the model's choice that a PIX row is the whole EXTRACT (log 9,
DESIGN CHOICE) and its reading that an illegal depth still decodes (log 8, DEDUCED). -/
def Obligations.ExtractPicksVariantFromColorType : Prop :=
  ∀ (s : State) (d : Byte),
    (s.format = (0 : Byte) ++ d → exec .extract s = exec (.pixGreyscale d) s) ∧
    (s.format = (4 : Byte) ++ d → exec .extract s = exec (.pixGreyscaleAlpha d) s) ∧
    (s.format = (2 : Byte) ++ d → exec .extract s = exec (.pixRgb d) s) ∧
    (s.format = (6 : Byte) ++ d → exec .extract s = exec (.pixRgba d) s) ∧
    (s.format = (3 : Byte) ++ d → exec .extract s = exec (.pixPalette d) s)

/-- The model's loader (log 3, DESIGN CHOICE): a table word placed by withFetchWord is the instruction the next step
runs, on the state the loader made. -/
def Obligations.LoadedWordRunsNext : Prop :=
  ∀ (s : State) (nbits w : Nat) (i : Instr), decodeTableWord nbits w = some i →
    step (s.withFetchWord nbits w) = exec i { s.withFetchWord nbits w with pending := s.pending }

/-- 60_exceptions.md R190 (between accesses the block keeps all its state) and 70_reset_and_hazards.md R200 (power-on
has exactly the effect of the RESET command). That idling is a step and power-on an input: log 2. -/
def Obligations.IdleKeepsStateAndPowerOnResets : Prop :=
  (∀ s : State, s.pending = [] → step s = .next s) ∧
  ∀ s : State, step { s with pending := .powerOn :: s.pending } = exec .reset s

/-! ## The housekeeping commands -/

/-- 40_commands.md R100: NOP has no effect, in any state. -/
def Obligations.NopChangesNothing : Prop :=
  encode .nop = .command 0x00000000 ∧ ∀ s : State, exec .nop s = .next s

/-- 40_commands.md R101: CLEAR_PREV makes every RECON byte 0 and changes nothing else; while ERR = 1 it is ignored. -/
def Obligations.ClearPrevZeroesRecon : Prop :=
  encode .clearPrev = .command 0x00000001 ∧
  (∀ s : State, s.err = false →
    ∃ t, exec .clearPrev s = .next t ∧ (∀ k, t.reconByte k = 0) ∧ t = { s with recon := t.recon }) ∧
  ∀ s : State, s.err = true → exec .clearPrev s = .next s

/-- 40_commands.md R102, 70_reset_and_hazards.md R200, R201: RESET runs whatever ERR is; every register becomes 0,
every RECON byte 0, no RAW byte and no PAL entry holds a value, and the parameters stay. Power-on has exactly this
effect. -/
def Obligations.ResetClearsEverything : Prop :=
  encode .reset = .command 0x00000004 ∧
  ∀ s : State, ∃ t, exec .reset s = .next t ∧
    t.err = false ∧ t.pixValid = false ∧ t.errCode = 0 ∧ t.errInfo = 0 ∧ t.format = 0 ∧ t.width = 0 ∧
    t.rawAddr = 0 ∧ t.reconAddr = 0 ∧ t.palAddr = 0 ∧ t.palSize = 0 ∧ t.pixIndex = 0 ∧
    t.pixR = 0 ∧ t.pixG = 0 ∧ t.pixB = 0 ∧ t.pixA = 0 ∧
    (∀ k, t.reconByte k = 0) ∧ (∀ k, t.rawByte k = none) ∧ (∀ k, t.palEntry k = none) ∧
    t.cfg = s.cfg ∧
    step { s with pending := .powerOn :: s.pending } = .next t

/-- 70_reset_and_hazards.md R200, R201: State.reset is the state RESET leaves for the same parameters. That its
parameters are those of log 1, and that RESET leaves the host's own pending accesses and returned values alone (log 2),
are the model's choices (DESIGN CHOICE). -/
def Obligations.PowerOnStateIsResetState : Prop :=
  (∀ s t : State, exec .reset s = .next t → t.pending = s.pending ∧ t.reads = s.reads) ∧
  (∀ s : State, s.cfg = State.reset.cfg → s.pending = [] → s.reads = [] → exec .reset s = .next State.reset) ∧
  (∀ k, State.reset.reconByte k = 0) ∧ (∀ k, State.reset.rawByte k = none) ∧ (∀ k, State.reset.palEntry k = none)

/-! ## DEFILTER and the five filters -/

/-- 41_defilter.md R122: None, new[i] = x[i]; RECON from L on and everything else unchanged. As an instruction of its
own: the model's choice (log 9); the numeral: log 10. -/
def Obligations.FilterNoneCopiesRow : Prop :=
  encode .filterNone = .filter 0x00 ∧
  ∀ (s : State) (m : ColorModel) (d : Nat), s.RowReady m d →
    ∃ t, exec .filterNone s = .next t ∧ t = { s with recon := t.recon } ∧
      (∀ i, i < rowLength m d s.width → some (t.reconByte i) = s.rawByte (1 + i)) ∧
      ∀ k, rowLength m d s.width ≤ k → t.reconByte k = s.reconByte k

/-- 41_defilter.md R123: Sub, new[i] = (x[i] + a) mod 256 with a the already defiltered byte bpp positions before. As
an instruction of its own: the model's choice (log 9); the numeral: log 10. -/
def Obligations.FilterSubAddsLeft : Prop :=
  encode .filterSub = .filter 0x01 ∧
  ∀ (s : State) (m : ColorModel) (d : Nat), s.RowReady m d →
    ∃ t, exec .filterSub s = .next t ∧ t = { s with recon := t.recon } ∧
      (∀ i x, i < rowLength m d s.width → s.rawByte (1 + i) = some x →
        (t.reconByte i).toNat = (x.toNat +
          if bytesPerPixel m d ≤ i then (t.reconByte (i - bytesPerPixel m d)).toNat else 0) % 256) ∧
      ∀ k, rowLength m d s.width ≤ k → t.reconByte k = s.reconByte k

/-- 41_defilter.md R124: Up, new[i] = (x[i] + b) mod 256 with b the byte of the previous row. As an instruction of its
own: the model's choice (log 9); the numeral: log 10. -/
def Obligations.FilterUpAddsAbove : Prop :=
  encode .filterUp = .filter 0x02 ∧
  ∀ (s : State) (m : ColorModel) (d : Nat), s.RowReady m d →
    ∃ t, exec .filterUp s = .next t ∧ t = { s with recon := t.recon } ∧
      (∀ i x, i < rowLength m d s.width → s.rawByte (1 + i) = some x →
        (t.reconByte i).toNat = (x.toNat + (s.reconByte i).toNat) % 256) ∧
      ∀ k, rowLength m d s.width ≤ k → t.reconByte k = s.reconByte k

/-- 41_defilter.md R125: Average, new[i] = (x[i] + ((a + b) div 2)) mod 256, the sum a + b exact. As an instruction of
its own: the model's choice (log 9); the numeral: log 10. -/
def Obligations.FilterAverageAddsExactMean : Prop :=
  encode .filterAverage = .filter 0x03 ∧
  ∀ (s : State) (m : ColorModel) (d : Nat), s.RowReady m d →
    ∃ t, exec .filterAverage s = .next t ∧ t = { s with recon := t.recon } ∧
      (∀ i x, i < rowLength m d s.width → s.rawByte (1 + i) = some x →
        (t.reconByte i).toNat = (x.toNat +
          ((if bytesPerPixel m d ≤ i then (t.reconByte (i - bytesPerPixel m d)).toNat else 0)
            + (s.reconByte i).toNat) / 2) % 256) ∧
      ∀ k, rowLength m d s.width ≤ k → t.reconByte k = s.reconByte k

/-- 41_defilter.md R126: Paeth, new[i] = (x[i] + paeth(a, b, c)) mod 256; paeth itself is PaethPicksNearest. As an
instruction of its own: the model's choice (log 9); the numeral: log 10. -/
def Obligations.FilterPaethAddsPrediction : Prop :=
  encode .filterPaeth = .filter 0x04 ∧
  ∀ (s : State) (m : ColorModel) (d : Nat), s.RowReady m d →
    ∃ t, exec .filterPaeth s = .next t ∧ t = { s with recon := t.recon } ∧
      (∀ i x, i < rowLength m d s.width → s.rawByte (1 + i) = some x →
        (t.reconByte i).toNat = (x.toNat +
          (paeth (if bytesPerPixel m d ≤ i then t.reconByte (i - bytesPerPixel m d) else 0) (s.reconByte i)
            (if bytesPerPixel m d ≤ i then s.reconByte (i - bytesPerPixel m d) else 0)).toNat) % 256) ∧
      ∀ k, rowLength m d s.width ≤ k → t.reconByte k = s.reconByte k

/-- 41_defilter.md R127: the Paeth predictor on exact integers, through its three distances, with the rule's
examples. -/
def Obligations.PaethPicksNearest : Prop :=
  (∀ a b c : Byte, ∀ p pa pb pc : Int,
    p = (a.toNat : Int) + b.toNat - c.toNat →
    pa = |p - a.toNat| → pb = |p - b.toNat| → pc = |p - c.toNat| →
    (-255 ≤ p ∧ p ≤ 510) ∧
    (pa = |(b.toNat : Int) - c.toNat| ∧ pb = |(a.toNat : Int) - c.toNat|
      ∧ pc = |(a.toNat : Int) + b.toNat - 2 * c.toNat|) ∧
    (pa ≤ pb ∧ pa ≤ pc → paeth a b c = a) ∧
    (¬(pa ≤ pb ∧ pa ≤ pc) → pb ≤ pc → paeth a b c = b) ∧
    (¬(pa ≤ pb ∧ pa ≤ pc) → ¬pb ≤ pc → paeth a b c = c)) ∧
  paeth 10 10 0 = 10 ∧ paeth 0 10 10 = 0 ∧ paeth 0 30 10 = 30

/-- 41_defilter.md R121: the row transform, byte by byte, and the five predictors. -/
def Obligations.DefilterRowRecurrence : Prop :=
  (∀ (ft : FilterType) (bpp : Nat) (prev x : List Byte), 1 ≤ bpp → prev.length = x.length →
    (defilterRow ft bpp prev x).length = x.length ∧
    ∀ i, i < x.length →
      ((defilterRow ft bpp prev x).getD i 0).toNat = ((x.getD i 0).toNat + (predictor ft
        (if bpp ≤ i then (defilterRow ft bpp prev x).getD (i - bpp) 0 else 0)
        (prev.getD i 0)
        (if bpp ≤ i then prev.getD (i - bpp) 0 else 0)).toNat) % 256) ∧
  ∀ a b c : Byte, predictor .none a b c = 0 ∧ predictor .sub a b c = a ∧ predictor .up a b c = b ∧
    (predictor .average a b c).toNat = (a.toNat + b.toNat) / 2 ∧ predictor .paeth a b c = paeth a b c

/-- 41_defilter.md R130, the inverse law: defiltering the forward filter of a row gives the row back, for every
filter, every row, every previous row and every stride the format table gives. The forward filter itself: log 11. -/
def Obligations.DefilterInvertsForwardFilter : Prop :=
  ∀ (ft : FilterType) (bpp : Nat) (prev orig : List Byte), bpp ∈ [1, 2, 3, 4, 6, 8] → prev.length = orig.length →
    defilterRow ft bpp prev (filterRow ft bpp prev orig) = orig

/-- 41_defilter.md R120 with R130, on the machine: where RAW holds a filter byte and the forward-filtered row `orig`
against RECON, the step of the CMD write 0x0000_0002 leaves `orig` in RECON and nothing else changed. The numerals of
the filters: log 10. The forward filter itself: log 11. -/
def Obligations.DefilterStepRestoresRow : Prop :=
  ∀ (s : State) (m : ColorModel) (d : Nat) (ft : FilterType) (orig : List Byte), s.RowReady m d →
    s.rawByte 0 = some ft.toByte → orig.length = rowLength m d s.width →
    (∀ i, i < orig.length →
      s.rawByte (1 + i) = some (filterByte ft (bytesPerPixel m d) (s.reconRow 0 (rowLength m d s.width)) orig i)) →
    ∃ t, step (s.thenWrite 0x00 0x00000002) = .next t ∧ t = { s with recon := t.recon } ∧
      (∀ i, i < orig.length → t.reconByte i = orig.getD i 0) ∧
      ∀ k, orig.length ≤ k → t.reconByte k = s.reconByte k

/-- 41_defilter.md R120: the whole of DEFILTER, its errors in the order they are checked, its model faults
(00_scope.md R13) and its result. The numerals of the filters: log 10. That the first unwritten byte is the one the
fault names: log 4. -/
def Obligations.DefilterCommand : Prop :=
  encode .defilter = .command 0x00000002 ∧
  (∀ s : State, s.err = true → exec .defilter s = .next s) ∧
  (∀ s : State, s.err = false → legalFormat s.format = none →
    exec .defilter s = .next (s.recorded 0x02 (s.format.setWidth 32))) ∧
  (∀ (s : State) (m : ColorModel) (d : Nat), s.err = false → legalFormat s.format = some (m, d) →
    (rowLength m d s.width = 0 ∨ s.cfg.rowBytesMax < rowLength m d s.width) →
    exec .defilter s = .next (s.recorded 0x03 (BitVec.ofNat 32 (min (rowLength m d s.width) 0xFFFFFFFF)))) ∧
  (∀ (s : State) (m : ColorModel) (d : Nat), s.err = false → legalFormat s.format = some (m, d) →
    1 ≤ rowLength m d s.width → rowLength m d s.width ≤ s.cfg.rowBytesMax →
    (s.rawByte 0 = none → exec .defilter s = .fault (.rawUnwritten 0)) ∧
    (∀ b, s.rawByte 0 = some b → 4 < b.toNat → exec .defilter s = .next (s.recorded 0x01 (b.setWidth 32))) ∧
    (∀ b k, s.rawByte 0 = some b → b.toNat ≤ 4 → 1 ≤ k → k ≤ rowLength m d s.width → s.rawByte k = none →
      (∀ j, 1 ≤ j → j < k → s.rawByte j ≠ none) → exec .defilter s = .fault (.rawUnwritten k))) ∧
  (∀ (s : State) (m : ColorModel) (d : Nat) (ft : FilterType) (x : List Byte), s.RowReady m d →
    s.rawByte 0 = some ft.toByte → x.length = rowLength m d s.width →
    (∀ i, i < x.length → s.rawByte (1 + i) = some (x.getD i 0)) →
    ∃ t, exec .defilter s = .next t ∧ t = { s with recon := t.recon } ∧
      (∀ i, i < x.length →
        t.reconByte i = (defilterRow ft (bytesPerPixel m d) (s.reconRow 0 x.length) x).getD i 0) ∧
      ∀ k, x.length ≤ k → t.reconByte k = s.reconByte k)

/-- 41_defilter.md R122 to R126, "Errors: only those of rule R120": where a filter taken as an instruction (log 9)
does not complete. That the first unwritten byte is the one the fault names: log 4. -/
def Obligations.FiltersTrapAsDefilter : Prop :=
  ∀ i ∈ [Instr.filterNone, .filterSub, .filterUp, .filterAverage, .filterPaeth],
    (∀ s : State, s.err = true → exec i s = .next s) ∧
    (∀ s : State, s.err = false → legalFormat s.format = none →
      exec i s = .next (s.recorded 0x02 (s.format.setWidth 32))) ∧
    (∀ (s : State) (m : ColorModel) (d : Nat), s.err = false → legalFormat s.format = some (m, d) →
      (rowLength m d s.width = 0 ∨ s.cfg.rowBytesMax < rowLength m d s.width) →
      exec i s = .next (s.recorded 0x03 (BitVec.ofNat 32 (min (rowLength m d s.width) 0xFFFFFFFF)))) ∧
    (∀ (s : State) (m : ColorModel) (d k : Nat), s.err = false → legalFormat s.format = some (m, d) →
      rowLength m d s.width ≤ s.cfg.rowBytesMax → 1 ≤ k → k ≤ rowLength m d s.width → s.rawByte k = none →
      (∀ j, 1 ≤ j → j < k → s.rawByte j ≠ none) → exec i s = .fault (.rawUnwritten k))

/-- 41_defilter.md R128: on the first row of a sub-image Up is None, Paeth is Sub, and Average adds a div 2. A filter
as an instruction of its own: the model's choice (log 9). -/
def Obligations.FirstRowReducesFilters : Prop :=
  ∀ s : State, (∀ k, s.reconByte k = 0) →
    exec .filterUp s = exec .filterNone s ∧
    exec .filterPaeth s = exec .filterSub s ∧
    ∀ (m : ColorModel) (d : Nat), s.RowReady m d →
      ∃ t, exec .filterAverage s = .next t ∧
        ∀ i x, i < rowLength m d s.width → s.rawByte (1 + i) = some x →
          (t.reconByte i).toNat = (x.toNat +
            (if bytesPerPixel m d ≤ i then (t.reconByte (i - bytesPerPixel m d)).toNat else 0) / 2) % 256

/-- 41_defilter.md R132: on a row no longer than bpp Sub is None, Paeth is Up, and Average adds b div 2. A filter as
an instruction of its own: the model's choice (log 9). -/
def Obligations.ShortRowReducesFilters : Prop :=
  ∀ (s : State) (m : ColorModel) (d : Nat), legalFormat s.format = some (m, d) →
    rowLength m d s.width ≤ bytesPerPixel m d →
    exec .filterSub s = exec .filterNone s ∧
    exec .filterPaeth s = exec .filterUp s ∧
    (s.RowReady m d → ∃ t, exec .filterAverage s = .next t ∧
      ∀ i x, i < rowLength m d s.width → s.rawByte (1 + i) = some x →
        (t.reconByte i).toNat = (x.toNat + (s.reconByte i).toNat / 2) % 256)

/-! ## EXTRACT and the five variants -/

/-- 30_encoding.md R86 and R87, 42_pixel_extract.md R151: which bits of RECON a sample is, sub-byte fields most
significant block first and 16-bit channels big-endian. -/
def Obligations.SampleFields : Prop :=
  ∀ (s : State) (m : ColorModel) (n j : Nat),
    (∀ d ∈ [1, 2, 4], sample s m d n j =
      (s.reconByte (n * d / 8)).toNat / 2 ^ (8 - d * (n % (8 / d) + 1)) % 2 ^ d) ∧
    sample s m 8 n j = (s.reconByte (n * (bitsPerPixel m 8 / 8) + j)).toNat ∧
    sample s m 16 n j = (s.reconByte (n * (bitsPerPixel m 16 / 8) + 2 * j)).toNat * 256
      + (s.reconByte (n * (bitsPerPixel m 16 / 8) + 2 * j + 1)).toNat

/-- 42_pixel_extract.md R154: Greyscale gives (y, y, y, 2^d - 1). As an instruction of its own: the model's choice
(log 9); EXTRACT runs it by ExtractPicksVariantFromColorType. -/
def Obligations.GreyscalePixel : Prop :=
  (∀ d : Byte, encode (.pixGreyscale d) = .format ((0x00 : Byte) ++ d)) ∧
  ∀ (s : State) (depth : Byte), s.PixelReady .greyscale depth →
    exec (.pixGreyscale depth) s = .next { s with
      pixValid := true
      pixR := BitVec.ofNat 16 (sample s .greyscale depth.toNat s.pixIndex.toNat 0)
      pixG := BitVec.ofNat 16 (sample s .greyscale depth.toNat s.pixIndex.toNat 0)
      pixB := BitVec.ofNat 16 (sample s .greyscale depth.toNat s.pixIndex.toNat 0)
      pixA := BitVec.ofNat 16 (2 ^ depth.toNat - 1) }

/-- 42_pixel_extract.md R155: GreyscaleAlpha gives (y, y, y, al). As an instruction of its own: the model's choice
(log 9); EXTRACT runs it by ExtractPicksVariantFromColorType. -/
def Obligations.GreyscaleAlphaPixel : Prop :=
  (∀ d : Byte, encode (.pixGreyscaleAlpha d) = .format ((0x04 : Byte) ++ d)) ∧
  ∀ (s : State) (depth : Byte), s.PixelReady .greyscaleAlpha depth →
    exec (.pixGreyscaleAlpha depth) s = .next { s with
      pixValid := true
      pixR := BitVec.ofNat 16 (sample s .greyscaleAlpha depth.toNat s.pixIndex.toNat 0)
      pixG := BitVec.ofNat 16 (sample s .greyscaleAlpha depth.toNat s.pixIndex.toNat 0)
      pixB := BitVec.ofNat 16 (sample s .greyscaleAlpha depth.toNat s.pixIndex.toNat 0)
      pixA := BitVec.ofNat 16 (sample s .greyscaleAlpha depth.toNat s.pixIndex.toNat 1) }

/-- 42_pixel_extract.md R156: RGB gives the three samples and alpha 2^d - 1. As an instruction of its own: the model's
choice (log 9); EXTRACT runs it by ExtractPicksVariantFromColorType. -/
def Obligations.RgbPixel : Prop :=
  (∀ d : Byte, encode (.pixRgb d) = .format ((0x02 : Byte) ++ d)) ∧
  ∀ (s : State) (depth : Byte), s.PixelReady .rgb depth →
    exec (.pixRgb depth) s = .next { s with
      pixValid := true
      pixR := BitVec.ofNat 16 (sample s .rgb depth.toNat s.pixIndex.toNat 0)
      pixG := BitVec.ofNat 16 (sample s .rgb depth.toNat s.pixIndex.toNat 1)
      pixB := BitVec.ofNat 16 (sample s .rgb depth.toNat s.pixIndex.toNat 2)
      pixA := BitVec.ofNat 16 (2 ^ depth.toNat - 1) }

/-- 42_pixel_extract.md R157: RGBAlpha gives the four samples. As an instruction of its own: the model's choice (log
9); EXTRACT runs it by ExtractPicksVariantFromColorType. -/
def Obligations.RgbaPixel : Prop :=
  (∀ d : Byte, encode (.pixRgba d) = .format ((0x06 : Byte) ++ d)) ∧
  ∀ (s : State) (depth : Byte), s.PixelReady .rgba depth →
    exec (.pixRgba depth) s = .next { s with
      pixValid := true
      pixR := BitVec.ofNat 16 (sample s .rgba depth.toNat s.pixIndex.toNat 0)
      pixG := BitVec.ofNat 16 (sample s .rgba depth.toNat s.pixIndex.toNat 1)
      pixB := BitVec.ofNat 16 (sample s .rgba depth.toNat s.pixIndex.toNat 2)
      pixA := BitVec.ofNat 16 (sample s .rgba depth.toNat s.pixIndex.toNat 3) }

/-- 42_pixel_extract.md R158: PaletteIndexed looks up PAL, alpha 255; an index at or past PAL_SIZE is
PALETTE_INDEX_RANGE, an unwritten entry a model fault (00_scope.md R13). As an instruction of its own: the model's
choice (log 9); EXTRACT runs it by ExtractPicksVariantFromColorType. -/
def Obligations.PalettePixel : Prop :=
  (∀ d : Byte, encode (.pixPalette d) = .format ((0x03 : Byte) ++ d)) ∧
  ∀ (s : State) (depth : Byte) (ix : Nat), s.PixelReady .palette depth →
    ix = sample s .palette depth.toNat s.pixIndex.toNat 0 →
    ix < 2 ^ depth.toNat ∧
    (s.palSize.toNat ≤ ix → exec (.pixPalette depth) s = .next (s.recorded 0x04 (BitVec.ofNat 32 ix))) ∧
    (ix < s.palSize.toNat → s.palEntry ix = none → exec (.pixPalette depth) s = .fault (.palUnwritten ix)) ∧
    ∀ e, ix < s.palSize.toNat → s.palEntry ix = some e →
      exec (.pixPalette depth) s = .next { s with
        pixValid := true
        pixR := BitVec.ofNat 16 e.r.toNat
        pixG := BitVec.ofNat 16 e.g.toNat
        pixB := BitVec.ofNat 16 e.b.toNat
        pixA := 255 }

/-- 42_pixel_extract.md R152: `in_row(n)` is exact, and an EXTRACT outside the row is "no pixel", no error. -/
def Obligations.OutsideRowIsNoPixel : Prop :=
  (∀ (f : FormatBits) (m : ColorModel) (d : Nat) (width : Word) (n : Nat), legalFormat f = some (m, d) →
    (inRow m d width n = true ↔ (n + 1) * bitsPerPixel m d ≤ 8 * rowLength m d width) ∧
    (8 ≤ d → (inRow m d width n = true ↔ n * (bitsPerPixel m d / 8) < rowLength m d width)) ∧
    (d < 8 → (inRow m d width n = true ↔ n * d / 8 < rowLength m d width))) ∧
  ∀ (s : State) (m : ColorModel) (d : Nat), s.err = false → legalFormat s.format = some (m, d) →
    rowLength m d s.width ≤ s.cfg.rowBytesMax →
    8 * rowLength m d s.width < (s.pixIndex.toNat + 1) * bitsPerPixel m d →
    exec .extract s = .next { s with pixValid := false, pixR := 0, pixG := 0, pixB := 0, pixA := 0 }

/-- 42_pixel_extract.md R150: the whole of EXTRACT, its errors in the order they are checked and the pixel it writes;
the five variants are GreyscalePixel to PalettePixel. -/
def Obligations.ExtractCommand : Prop :=
  encode .extract = .command 0x00000003 ∧
  (∀ s : State, s.err = true → exec .extract s = .next s) ∧
  (∀ s : State, s.err = false → legalFormat s.format = none →
    exec .extract s = .next (s.recorded 0x02 (s.format.setWidth 32))) ∧
  (∀ (s : State) (m : ColorModel) (d : Nat), s.err = false → legalFormat s.format = some (m, d) →
    s.cfg.rowBytesMax < rowLength m d s.width →
    exec .extract s = .next (s.recorded 0x03 (BitVec.ofNat 32 (min (rowLength m d s.width) 0xFFFFFFFF)))) ∧
  (∀ (s : State) (m : ColorModel) (d : Nat), s.err = false → legalFormat s.format = some (m, d) →
    rowLength m d s.width ≤ s.cfg.rowBytesMax →
    8 * rowLength m d s.width < (s.pixIndex.toNat + 1) * bitsPerPixel m d →
    exec .extract s = .next { s with pixValid := false, pixR := 0, pixG := 0, pixB := 0, pixA := 0 }) ∧
  (∀ (s : State) (m : ColorModel) (depth : Byte), s.format = m.toByte ++ depth → s.PixelReady m depth →
    (m ≠ .palette ∨ ∃ e, s.palEntry (sample s m depth.toNat s.pixIndex.toNat 0) = some e ∧
      sample s m depth.toNat s.pixIndex.toNat 0 < s.palSize.toNat) →
    exec .extract s = exec (m.instr depth) s ∧
    ∃ r g b a, exec .extract s = .next { s with pixValid := true, pixR := r, pixG := g, pixB := b, pixA := a }) ∧
  ∀ (s : State) (depth : Byte), s.format = (0x03 : Byte) ++ depth → s.PixelReady .palette depth →
    s.palSize.toNat ≤ sample s .palette depth.toNat s.pixIndex.toNat 0 →
    exec .extract s =
      .next (s.recorded 0x04 (BitVec.ofNat 32 (sample s .palette depth.toNat s.pixIndex.toNat 0)))

/-- 42_pixel_extract.md R150 on the variants taken as instructions (log 9): where they do not reach their pixel. -/
def Obligations.VariantsTrapAsExtract : Prop :=
  ∀ (m : ColorModel) (depth : Byte),
    (∀ s : State, s.err = true → exec (m.instr depth) s = .next s) ∧
    (∀ s : State, s.err = false → depth.toNat ∉ m.legalDepths →
      exec (m.instr depth) s = .next (s.recorded 0x02 (BitVec.ofNat 32 (m.toByte.toNat * 256 + depth.toNat)))) ∧
    (∀ s : State, s.err = false → depth.toNat ∈ m.legalDepths →
      s.cfg.rowBytesMax < rowLength m depth.toNat s.width →
      exec (m.instr depth) s =
        .next (s.recorded 0x03 (BitVec.ofNat 32 (min (rowLength m depth.toNat s.width) 0xFFFFFFFF)))) ∧
    (∀ s : State, s.err = false → depth.toNat ∈ m.legalDepths →
      rowLength m depth.toNat s.width ≤ s.cfg.rowBytesMax →
      8 * rowLength m depth.toNat s.width < (s.pixIndex.toNat + 1) * bitsPerPixel m depth.toNat →
      exec (m.instr depth) s = .next { s with pixValid := false, pixR := 0, pixG := 0, pixB := 0, pixA := 0 })

/-- 42_pixel_extract.md R159 and R160: with a sub-byte depth the indices in the row are exactly those below
(8 div d) * L, padding samples among them, and an index never wraps into the row. -/
def Obligations.PaddingIndicesAreInRow : Prop :=
  ∀ (f : FormatBits) (m : ColorModel) (d : Nat) (width : Word) (n : Nat), legalFormat f = some (m, d) →
    (d < 8 → (inRow m d width n = true ↔ n < 8 / d * rowLength m d width)) ∧
    (d < 8 → 8 / d * rowLength m d width =
      width.toNat + (8 * rowLength m d width - width.toNat * bitsPerPixel m d) / d) ∧
    (n < width.toNat → inRow m d width n = true) ∧
    (n = 0xFFFFFFFF → rowLength m d width < 2 ^ 29 * bitsPerPixel m d → inRow m d width n = false)

/-- 20_memory.md R72: two EXTRACTs are idempotent. -/
def Obligations.ExtractIsIdempotent : Prop :=
  ∀ s t : State, exec .extract s = .next t → exec .extract t = .next t

/-! ## Errors -/

/-- 60_exceptions.md R181: `raise Error` records the first error and nothing else changes; R180: the codes. -/
def Obligations.RaiseRecordsFirstErrorOnly : Prop :=
  (∀ (s : State) (c : ErrorCode) (info : Word), s.err = false →
    s.raiseError c info = { s with err := true, errCode := c.toByte, errInfo := info }) ∧
  (∀ (s : State) (c : ErrorCode) (info : Word), s.err = true → s.raiseError c info = s) ∧
  (∀ (s : State) (c c' : ErrorCode) (info info' : Word),
    (s.raiseError c info).raiseError c' info' = s.raiseError c info) ∧
  ErrorCode.toByte .invalidFilter = 0x01 ∧ ErrorCode.toByte .invalidFormat = 0x02 ∧
  ErrorCode.toByte .rowLength = 0x03 ∧ ErrorCode.toByte .paletteIndexRange = 0x04 ∧
  ErrorCode.toByte .rawAddrRange = 0x05 ∧ ErrorCode.toByte .reconAddrRange = 0x06 ∧
  ErrorCode.toByte .badCommand = 0x07

/-- 40_commands.md R103, 30_encoding.md R81: the dispatch of a CMD write, and that a command which raises an error
changes nothing except the error state. -/
def Obligations.CmdWriteDispatch : Prop :=
  (∀ s : State, step (s.thenWrite 0x00 0x00000004) = exec .reset s) ∧
  (∀ s : State, step (s.thenWrite 0x00 0x00000000) = .next s) ∧
  (∀ (s : State) (w : Word), s.err = true → w ≠ 0x00000004 → step (s.thenWrite 0x00 w) = .next s) ∧
  (∀ s : State, s.err = false →
    step (s.thenWrite 0x00 0x00000001) = exec .clearPrev s ∧
    step (s.thenWrite 0x00 0x00000002) = exec .defilter s ∧
    step (s.thenWrite 0x00 0x00000003) = exec .extract s) ∧
  (∀ (s : State) (w : Word), s.err = false → 5 ≤ w.toNat → step (s.thenWrite 0x00 w) = .next (s.recorded 0x07 w)) ∧
  ∀ (s t : State) (w : Word), s.err = false → step (s.thenWrite 0x00 w) = .next t → t.err = true →
    t = s.recorded t.errCode t.errInfo

/-- 60_exceptions.md R186 and R181: once recorded, an error stays as it is through every step but a reset (the RESET
command or power-on), which clears it and discards RAW and PAL. -/
def Obligations.OnlyResetLeavesErrorState : Prop :=
  ∀ s t : State, s.err = true → step s = .next t →
    (s.nextIsReset → t.err = false ∧ t.errCode = 0 ∧ t.errInfo = 0 ∧
      (∀ k, t.rawByte k = none) ∧ ∀ k, t.palEntry k = none) ∧
    (¬s.nextIsReset → t.err = true ∧ t.errCode = s.errCode ∧ t.errInfo = s.errInfo)

/-- 60_exceptions.md R181 and R182: from ERR = 1 no step but a reset writes RECON or the pixel registers. -/
def Obligations.NothingNewIsComputedWhileError : Prop :=
  ∀ s t : State, s.err = true → step s = .next t → ¬s.nextIsReset →
    t.recon = s.recon ∧ t.pixValid = s.pixValid ∧ t.pixR = s.pixR ∧ t.pixG = s.pixG ∧ t.pixB = s.pixB ∧
      t.pixA = s.pixA

/-- 60_exceptions.md R181: `raise Error`; a step that records an error changes nothing else but the list of pending
inputs and, where it is a read, returns 0; while ERR = 1 a new cause records nothing. The code recorded is one of
0x01..0x07 (R180). -/
def Obligations.ErrorsArePrecise : Prop :=
  (∀ (s : State) (c : ErrorCode) (info : Word),
    s.raiseError c info = if s.err then s else s.recorded c.toByte info) ∧
  (∀ s t : State, s.err = false → step s = .next t → t.err = true →
    1 ≤ t.errCode.toNat ∧ t.errCode.toNat ≤ 7 ∧
    ∃ i rest, s.pending = i :: rest ∧
      t = { s with err := true, errCode := t.errCode, errInfo := t.errInfo, pending := rest, reads := t.reads } ∧
      (t.reads = s.reads ++ [0] ∧ (∃ a, i = .access a ∧ a.op = .read) ∨
        t.reads = s.reads ∧ ∃ a w, i = .access a ∧ a.op = .write w)) ∧
  ∀ s t : State, s.err = true → step s = .next t → ¬s.nextIsReset →
    t.err = true ∧ t.errCode = s.errCode ∧ t.errInfo = s.errInfo

/-! ## The register window -/

/-- 10_state.md R24: the layout of STATUS. -/
def Obligations.StatusReadLayout : Prop :=
  ∀ s : State, ∃ v : Word, step (s.thenRead 0x04) = .next (s.returned v) ∧
    v.getLsbD 0 = s.err ∧ v.getLsbD 1 = s.pixValid ∧
    (∀ i, 2 ≤ i → i < 8 → v.getLsbD i = false) ∧
    v.extractLsb' 8 8 = s.errCode ∧
    ∀ i, 16 ≤ i → v.getLsbD i = false

/-- 10_state.md R28 and R29: ROW_LEN and BPP, computed at every read from FORMAT and WIDTH; writes are ignored. -/
def Obligations.RowLenAndBppReads : Prop :=
  ∀ s : State,
    (∀ w, step (s.thenWrite 0x14 w) = .next s ∧ step (s.thenWrite 0x18 w) = .next s) ∧
    (∀ (m : ColorModel) (d : Nat), legalFormat s.format = some (m, d) →
      step (s.thenRead 0x14) = .next (s.returned (BitVec.ofNat 32 (min (rowLength m d s.width) 0xFFFFFFFF))) ∧
      ∃ v : Word, step (s.thenRead 0x18) = .next (s.returned v) ∧
        (v.extractLsb' 0 4).toNat = bytesPerPixel m d ∧ 1 ≤ bytesPerPixel m d ∧ bytesPerPixel m d ≤ 8 ∧
        (v.extractLsb' 8 7).toNat = bitsPerPixel m d ∧ 1 ≤ bitsPerPixel m d ∧ bitsPerPixel m d ≤ 64 ∧
        (∀ i, 4 ≤ i → i < 8 → v.getLsbD i = false) ∧ ∀ i, 15 ≤ i → v.getLsbD i = false) ∧
    (legalFormat s.format = none →
      step (s.thenRead 0x14) = .next (s.returned 0) ∧ step (s.thenRead 0x18) = .next (s.returned 0))

/-- 40_commands.md R104 with 10_state.md R26, R27, R30, R32, R34, R36, R38: a write of a plain RW register stores its
non-reserved bits (PAL_SIZE clamped to 256) and changes nothing else; a read returns them, reserved bits 0. -/
def Obligations.PlainRegistersStoreAndReadBack : Prop :=
  (∀ (s : State) (w : Word),
    step (s.thenWrite 0x0C w) = .next { s with format := BitVec.ofNat 16 (w.toNat % 2 ^ 16) } ∧
    step (s.thenWrite 0x10 w) = .next { s with width := w } ∧
    step (s.thenWrite 0x1C w) = .next { s with rawAddr := w } ∧
    step (s.thenWrite 0x24 w) = .next { s with reconAddr := w } ∧
    step (s.thenWrite 0x2C w) = .next { s with palAddr := BitVec.ofNat 8 (w.toNat % 2 ^ 8) } ∧
    step (s.thenWrite 0x34 w) = .next { s with palSize := BitVec.ofNat 9 (min (w.toNat % 2 ^ 9) 256) } ∧
    step (s.thenWrite 0x38 w) = .next { s with pixIndex := w }) ∧
  ∀ s : State,
    step (s.thenRead 0x0C) = .next (s.returned (BitVec.ofNat 32 s.format.toNat)) ∧
    step (s.thenRead 0x10) = .next (s.returned s.width) ∧
    step (s.thenRead 0x1C) = .next (s.returned s.rawAddr) ∧
    step (s.thenRead 0x24) = .next (s.returned s.reconAddr) ∧
    step (s.thenRead 0x2C) = .next (s.returned (BitVec.ofNat 32 s.palAddr.toNat)) ∧
    step (s.thenRead 0x34) = .next (s.returned (BitVec.ofNat 32 s.palSize.toNat)) ∧
    step (s.thenRead 0x38) = .next (s.returned s.pixIndex)

/-- 10_state.md R45 and R46: writes to read-only registers and reserved offsets are ignored; reserved offsets and CMD
read 0; and (R25, R39) what ERR_INFO and the PIX registers read. -/
def Obligations.ReadOnlyAndReservedOffsets : Prop :=
  (∀ (s : State) (w : Word), ∀ off ∈ [0x04, 0x08, 0x14, 0x18, 0x28, 0x3C, 0x40, 0x44, 0x48],
    step (s.thenWrite off w) = .next s) ∧
  (∀ (s : State) (w : Word) (off : Nat), 0x4C ≤ off → off ≤ 0x7C → off % 4 = 0 →
    step (s.thenWrite off w) = .next s ∧ step (s.thenRead off) = .next (s.returned 0)) ∧
  ∀ s : State,
    step (s.thenRead 0x00) = .next (s.returned 0) ∧
    step (s.thenRead 0x08) = .next (s.returned s.errInfo) ∧
    step (s.thenRead 0x3C) = .next (s.returned (BitVec.ofNat 32 s.pixR.toNat)) ∧
    step (s.thenRead 0x40) = .next (s.returned (BitVec.ofNat 32 s.pixG.toNat)) ∧
    step (s.thenRead 0x44) = .next (s.returned (BitVec.ofNat 32 s.pixB.toNat)) ∧
    step (s.thenRead 0x48) = .next (s.returned (BitVec.ofNat 32 s.pixA.toNat))

/-- 20_memory.md R64: the RAW_DATA port. -/
def Obligations.RawDataPort : Prop :=
  ∀ s : State,
    (s.cfg.rowBytesMax < s.rawAddr.toNat → s.err = false →
      (∀ w, step (s.thenWrite 0x20 w) = .next (s.recorded 0x05 s.rawAddr)) ∧
      step (s.thenRead 0x20) = .next ((s.recorded 0x05 s.rawAddr).returned 0)) ∧
    (s.cfg.rowBytesMax < s.rawAddr.toNat → s.err = true →
      (∀ w, step (s.thenWrite 0x20 w) = .next s) ∧ step (s.thenRead 0x20) = .next (s.returned 0)) ∧
    (s.rawAddr.toNat ≤ s.cfg.rowBytesMax →
      (∀ w : Word, ∃ t, step (s.thenWrite 0x20 w) = .next t ∧
        t.rawByte s.rawAddr.toNat = some (BitVec.ofNat 8 (w.toNat % 2 ^ 8)) ∧
        (∀ k, k ≠ s.rawAddr.toNat → t.rawByte k = s.rawByte k) ∧
        t.rawAddr.toNat = (s.rawAddr.toNat + 1) % 2 ^ 32 ∧
        t = { s with raw := t.raw, rawAddr := t.rawAddr }) ∧
      (s.rawByte s.rawAddr.toNat = none → step (s.thenRead 0x20) = .fault (.rawUnwritten s.rawAddr.toNat)) ∧
      ∀ b, s.rawByte s.rawAddr.toNat = some b →
        ∃ t, step (s.thenRead 0x20) = .next t ∧ t.reads = s.reads ++ [BitVec.ofNat 32 b.toNat] ∧
          t.rawAddr.toNat = (s.rawAddr.toNat + 1) % 2 ^ 32 ∧
          t = { s with rawAddr := t.rawAddr, reads := t.reads })

/-- 20_memory.md R65: the RECON_DATA port. -/
def Obligations.ReconDataPort : Prop :=
  ∀ s : State,
    (s.cfg.rowBytesMax ≤ s.reconAddr.toNat → s.err = false →
      step (s.thenRead 0x28) = .next ((s.recorded 0x06 s.reconAddr).returned 0)) ∧
    (s.cfg.rowBytesMax ≤ s.reconAddr.toNat → s.err = true →
      step (s.thenRead 0x28) = .next (s.returned 0)) ∧
    (s.reconAddr.toNat < s.cfg.rowBytesMax →
      ∃ t, step (s.thenRead 0x28) = .next t ∧
        t.reads = s.reads ++ [BitVec.ofNat 32 (s.reconByte s.reconAddr.toNat).toNat] ∧
        t.reconAddr.toNat = (s.reconAddr.toNat + 1) % 2 ^ 32 ∧
        t = { s with reconAddr := t.reconAddr, reads := t.reads }) ∧
    ∀ w, step (s.thenWrite 0x28 w) = .next s

/-- 20_memory.md R66 and 30_encoding.md R88: the PAL_DATA port. -/
def Obligations.PalDataPort : Prop :=
  ∀ s : State,
    (∀ w : Word, ∃ t e, step (s.thenWrite 0x30 w) = .next t ∧
      t.palEntry s.palAddr.toNat = some e ∧
      e.r.toNat = w.toNat % 2 ^ 8 ∧ e.g.toNat = w.toNat / 2 ^ 8 % 2 ^ 8 ∧ e.b.toNat = w.toNat / 2 ^ 16 % 2 ^ 8 ∧
      (∀ k, k ≠ s.palAddr.toNat → t.palEntry k = s.palEntry k) ∧
      t.palAddr.toNat = (s.palAddr.toNat + 1) % 256 ∧
      t = { s with pal := t.pal, palAddr := t.palAddr }) ∧
    (s.palEntry s.palAddr.toNat = none → step (s.thenRead 0x30) = .fault (.palUnwritten s.palAddr.toNat)) ∧
    ∀ e, s.palEntry s.palAddr.toNat = some e →
      ∃ t, step (s.thenRead 0x30) = .next t ∧
        t.reads = s.reads ++ [BitVec.ofNat 32 (e.b.toNat * 2 ^ 16 + e.g.toNat * 2 ^ 8 + e.r.toNat)] ∧
        t.palAddr.toNat = (s.palAddr.toNat + 1) % 256 ∧
        t = { s with palAddr := t.palAddr, reads := t.reads }

/-- 20_memory.md R61, R62, R70: which accesses the block takes. An access to the window that is not a 32-bit one at a
multiple of 4, and one of a second master, has no step; an access outside the window does nothing to the block (log 5,
DESIGN CHOICE, for its taking a step at all). -/
def Obligations.AccessesTaken : Prop :=
  ∀ (s : State) (rest : List Input) (a : Access), s.pending = .access a :: rest →
    ((∀ x, a.addr ≤ x → x < a.addr + a.bytes → x < s.cfg.base ∨ s.cfg.base + 0x80 ≤ x) → 1 ≤ a.bytes →
      step s = .next { s with pending := rest }) ∧
    (∀ x, a.addr ≤ x → x < a.addr + a.bytes → s.cfg.base ≤ x → x < s.cfg.base + 0x80 →
      (a.master = .second → step s = .refused .secondMaster) ∧
      (a.master = .host → a.bytes ≠ 4 → step s = .refused .unsupportedAccess) ∧
      (a.master = .host → (a.addr < s.cfg.base ∨ (a.addr - s.cfg.base) % 4 ≠ 0) →
        step s = .refused .unsupportedAccess))

/-! ## Whole-machine rules -/

/-- 10_state.md R41: RECON is written only by CLEAR_PREV, DEFILTER and reset. -/
def Obligations.ReconWrittenOnlyByCommands : Prop :=
  ∀ s t : State, step s = .next t →
    (∀ k, t.reconByte k = s.reconByte k) ∨
    s.nextIsReset ∨ s.nextIsWrite 0x00 (· = 0x00000001) ∨ s.nextIsWrite 0x00 (· = 0x00000002)

/-- 10_state.md R39, R42: the pixel registers and PIX_VALID are written only by EXTRACT and reset. -/
def Obligations.PixelWrittenOnlyByExtract : Prop :=
  ∀ s t : State, step s = .next t →
    (t.pixValid = s.pixValid ∧ t.pixR = s.pixR ∧ t.pixG = s.pixG ∧ t.pixB = s.pixB ∧ t.pixA = s.pixA) ∨
    s.nextIsReset ∨ s.nextIsWrite 0x00 (· = 0x00000003)

/-- 10_state.md R37, R40, 20_memory.md R64, R66: RAW is written only through RAW_DATA, at RAW_ADDR, PAL only through
PAL_DATA, at PAL_ADDR, and both are lost at a reset. -/
def Obligations.BuffersWrittenOnlyThroughPorts : Prop :=
  ∀ s t : State, step s = .next t →
    ((∀ k, t.rawByte k = s.rawByte k) ∨ s.nextIsReset ∨
      (s.nextIsWrite 0x20 (fun _ => True) ∧ ∀ k, k ≠ s.rawAddr.toNat → t.rawByte k = s.rawByte k)) ∧
    ((∀ k, t.palEntry k = s.palEntry k) ∨ s.nextIsReset ∨
      (s.nextIsWrite 0x30 (fun _ => True) ∧ ∀ k, k ≠ s.palAddr.toNat → t.palEntry k = s.palEntry k))

/-- 20_memory.md R72, 40_commands.md R104, 10_state.md R26 to R38: which inputs write the host's registers; no command
but RESET does, and the parameters never change (00_scope.md R7, 70_reset_and_hazards.md R200). -/
def Obligations.HostRegistersWrittenOnlyByHost : Prop :=
  ∀ s t : State, step s = .next t →
    t.cfg = s.cfg ∧
    (s.nextIsReset ∨
      ((t.format = s.format ∨ s.nextIsWrite 0x0C (fun _ => True)) ∧
       (t.width = s.width ∨ s.nextIsWrite 0x10 (fun _ => True)) ∧
       (t.rawAddr = s.rawAddr ∨ s.nextIsWrite 0x1C (fun _ => True) ∨ s.nextIsWrite 0x20 (fun _ => True) ∨
        s.nextIsRead 0x20) ∧
       (t.reconAddr = s.reconAddr ∨ s.nextIsWrite 0x24 (fun _ => True) ∨ s.nextIsRead 0x28) ∧
       (t.palAddr = s.palAddr ∨ s.nextIsWrite 0x2C (fun _ => True) ∨ s.nextIsWrite 0x30 (fun _ => True) ∨
        s.nextIsRead 0x30) ∧
       (t.palSize = s.palSize ∨ s.nextIsWrite 0x34 (fun _ => True)) ∧
       (t.pixIndex = s.pixIndex ∨ s.nextIsWrite 0x38 (fun _ => True))))

/-- The frame of every instruction but RESET (41_defilter.md R120, 42_pixel_extract.md R150, 40_commands.md R100,
R101): the parameters, the host's registers, RAW, PAL and the host side are unchanged. RECON is unchanged outside the
bytes the instruction stores: all of it for NOP, EXTRACT and the variants, the bytes from L on for DEFILTER and the
filters (L from the FORMAT and WIDTH the instruction reads). STATUS.PIX_VALID and the PIX registers are unchanged but
by EXTRACT and its variants. A filter or a variant as an instruction of its own: the model's choice (log 9). -/
def Obligations.InstructionFrame : Prop :=
  ∀ (i : Instr) (s t : State), i ≠ .reset → exec i s = .next t →
    (t.cfg = s.cfg ∧ t.format = s.format ∧ t.width = s.width ∧ t.rawAddr = s.rawAddr ∧ t.reconAddr = s.reconAddr ∧
      t.palAddr = s.palAddr ∧ t.palSize = s.palSize ∧ t.pixIndex = s.pixIndex ∧ t.pending = s.pending ∧
      t.reads = s.reads ∧ (∀ k, t.rawByte k = s.rawByte k) ∧ ∀ k, t.palEntry k = s.palEntry k) ∧
    (i ∈ [.defilter, .filterNone, .filterSub, .filterUp, .filterAverage, .filterPaeth] →
      (∀ k m d, legalFormat s.format = some (m, d) → rowLength m d s.width ≤ k → t.reconByte k = s.reconByte k) ∧
      (legalFormat s.format = none → ∀ k, t.reconByte k = s.reconByte k)) ∧
    (i ∉ [.clearPrev, .defilter, .filterNone, .filterSub, .filterUp, .filterAverage, .filterPaeth] →
      ∀ k, t.reconByte k = s.reconByte k) ∧
    (i ∈ [.nop, .clearPrev, .defilter, .filterNone, .filterSub, .filterUp, .filterAverage, .filterPaeth] →
      t.pixValid = s.pixValid ∧ t.pixR = s.pixR ∧ t.pixG = s.pixG ∧ t.pixB = s.pixB ∧ t.pixA = s.pixA) ∧
    (t.err = s.err → t.errCode = s.errCode ∧ t.errInfo = s.errInfo) ∧
    (i ∈ [.nop, .clearPrev] → t.err = s.err)

/-- The state after reset meets the invariant (Safety.lean). -/
def Obligations.ResetMeetsInvariant : Prop := State.reset.Inv

/-- Every step keeps the invariant (Safety.lean): the buffers stay canonical and within their sizes, ERR_CODE and
ERR_INFO are 0 without an error and a code of 60_exceptions.md R180 with one, PAL_SIZE stays within 0..256, and the PIX
registers are 0 without a pixel. -/
def Obligations.StepKeepsInvariant : Prop :=
  ∀ s t : State, s.Inv → step s = .next t → t.Inv
end

