-- ==== Sys2Proof/Laws/Memory.lean ====
section
/-! SUPPORT. The laws of the canonical memory: a read after a write, and that every operation keeps the canonical form
and the bound on the keys. -/

namespace Sys2Proof.Machine

variable {α : Type}

theorem Memory.find?_insert (m : Memory α) (a b : Nat) (v : α) :
    Memory.find? (Memory.insert m a v) b = if b = a then some v else Memory.find? m b := by
  induction m with
  | nil => simp [Memory.insert, Memory.find?]
  | cons e m ih =>
    obtain ⟨k, w⟩ := e
    simp only [Memory.insert]
    split
    · simp [Memory.find?]
    · split
      · next h => subst h; simp only [Memory.find?]; split <;> rfl
      · next h => simp only [Memory.find?, ih]; split <;> split <;> simp_all

theorem Memory.find?_erase (m : Memory α) (a b : Nat) :
    Memory.find? (Memory.erase m a) b = if b = a then none else Memory.find? m b := by
  induction m with
  | nil => simp [Memory.erase, Memory.find?]
  | cons e m ih =>
    obtain ⟨k, w⟩ := e
    simp only [Memory.erase]
    split
    · next h => subst h; simp only [ih, Memory.find?]; split <;> rfl
    · next h => simp only [Memory.find?, ih]; split <;> split <;> simp_all

@[simp] theorem Memory.read_nil (u : Option α) (a : Nat) : Memory.read u [] a = u := rfl

/-- A read after a write: the written key reads the value written, every other key reads as before. -/
theorem Memory.read_write [DecidableEq α] (u : Option α) (m : Memory α) (a b : Nat) (v : α) :
    Memory.read u (Memory.write u m a v) b = if b = a then some v else Memory.read u m b := by
  unfold Memory.write Memory.read
  by_cases hu : u = some v
  · rw [if_pos hu, Memory.find?_erase]; by_cases hb : b = a <;> simp [hb, hu]
  · rw [if_neg hu, Memory.find?_insert]; by_cases hb : b = a <;> simp [hb]

/-- `low` is below every key that `m` may start with. -/
theorem Memory.sorted_cons (low : Option Nat) (k : Nat) (v : α) (m : Memory α) :
    Memory.sorted low ((k, v) :: m) = true ↔ (∀ l, low = some l → l < k) ∧ Memory.sorted (some k) m = true := by
  cases low <;> simp [Memory.sorted]

theorem Memory.sorted_weaken {low k : Nat} (m : Memory α) (h : low ≤ k) (hs : Memory.sorted (some k) m = true) :
    Memory.sorted (some low) m = true := by
  cases m with
  | nil => rfl
  | cons e m =>
    obtain ⟨k', v⟩ := e
    rw [Memory.sorted_cons] at hs ⊢
    exact ⟨fun l hl => by have := hs.1 k rfl; simp only [Option.some.injEq] at hl; omega, hs.2⟩

theorem Memory.sorted_insert (low : Option Nat) (m : Memory α) (a : Nat) (v : α)
    (ha : ∀ l, low = some l → l < a) (hs : Memory.sorted low m = true) :
    Memory.sorted low (Memory.insert m a v) = true := by
  induction m generalizing low with
  | nil => simpa [Memory.insert, Memory.sorted_cons, Memory.sorted] using ha
  | cons e m ih =>
    obtain ⟨k, w⟩ := e
    rw [Memory.sorted_cons] at hs
    simp only [Memory.insert]
    split
    · next h => simp only [Memory.sorted_cons]; exact ⟨ha, by simpa using h, hs.2⟩
    · split
      · next h => subst h; simp only [Memory.sorted_cons]; exact ⟨ha, hs.2⟩
      · simp only [Memory.sorted_cons]
        exact ⟨hs.1, ih (some k) (by simp; omega) hs.2⟩

theorem Memory.sorted_erase (low : Option Nat) (m : Memory α) (a : Nat) (hs : Memory.sorted low m = true) :
    Memory.sorted low (Memory.erase m a) = true := by
  induction m generalizing low with
  | nil => simpa [Memory.erase] using hs
  | cons e m ih =>
    obtain ⟨k, w⟩ := e
    rw [Memory.sorted_cons] at hs
    simp only [Memory.erase]
    split
    · have h := ih (some k) hs.2
      cases low with
      | none =>
        cases hm : Memory.erase m a with
        | nil => rfl
        | cons e m' =>
          obtain ⟨k', v⟩ := e
          rw [hm, Memory.sorted_cons] at h
          rw [Memory.sorted_cons]; exact ⟨by simp, h.2⟩
      | some l => exact Memory.sorted_weaken _ (le_of_lt (hs.1 l rfl)) h
    · rw [Memory.sorted_cons]; exact ⟨hs.1, ih (some k) hs.2⟩

theorem Memory.all_insert (p : Nat × α → Bool) (m : Memory α) (a : Nat) (v : α) (hv : p (a, v) = true)
    (hm : m.all p = true) : (Memory.insert m a v).all p = true := by
  induction m with
  | nil => simpa [Memory.insert] using hv
  | cons e m ih =>
    obtain ⟨k, w⟩ := e
    simp only [List.all_cons, Bool.and_eq_true] at hm
    simp only [Memory.insert]
    split
    · simp [hv, hm]
    · split
      · simp [hv, hm]
      · simp [hm.1, ih hm.2]

theorem Memory.all_erase (p : Nat × α → Bool) (m : Memory α) (a : Nat) (hm : m.all p = true) :
    (Memory.erase m a).all p = true := by
  induction m with
  | nil => rfl
  | cons e m ih =>
    obtain ⟨k, w⟩ := e
    simp only [List.all_cons, Bool.and_eq_true] at hm
    simp only [Memory.erase]
    split
    · exact ih hm.2
    · simp [hm.1, ih hm.2]

@[simp] theorem Memory.wf_nil [DecidableEq α] (u : Option α) : Memory.wf u [] = true := rfl

@[simp] theorem Memory.below_nil (n : Nat) : Memory.below n ([] : Memory α) = true := rfl

/-- A write keeps the canonical form. -/
theorem Memory.wf_write [DecidableEq α] (u : Option α) (m : Memory α) (a : Nat) (v : α)
    (h : Memory.wf u m = true) : Memory.wf u (Memory.write u m a v) = true := by
  simp only [Memory.wf, Bool.and_eq_true] at h ⊢
  unfold Memory.write
  split
  · exact ⟨Memory.sorted_erase _ _ _ h.1, Memory.all_erase _ _ _ h.2⟩
  · next hu => exact ⟨Memory.sorted_insert _ _ _ _ (by simp) h.1, Memory.all_insert _ _ _ _ (by simpa using hu) h.2⟩

/-- A write below the bound keeps every key below it. -/
theorem Memory.below_write [DecidableEq α] (u : Option α) (m : Memory α) (n a : Nat) (v : α) (ha : a < n)
    (h : Memory.below n m = true) : Memory.below n (Memory.write u m a v) = true := by
  unfold Memory.write Memory.below
  split
  · exact Memory.all_erase _ _ _ h
  · exact Memory.all_insert _ _ _ _ (by simpa using ha) h

end Sys2Proof.Machine
end

