-- ==== Sys2Proof/Laws/State.lean ====
section
/-! SUPPORT. One lemma per field per update of the state, so that no proof unfolds a record update. -/

namespace Sys2Proof.Machine

/-! ## setRawByte -/

@[simp] theorem State.setRawByte_cfg (k : Nat) (v : Byte) (s : State) : (s.setRawByte k v).cfg = s.cfg := rfl
@[simp] theorem State.setRawByte_err (k : Nat) (v : Byte) (s : State) : (s.setRawByte k v).err = s.err := rfl
@[simp] theorem State.setRawByte_pixValid (k : Nat) (v : Byte) (s : State) : (s.setRawByte k v).pixValid = s.pixValid := rfl
@[simp] theorem State.setRawByte_errCode (k : Nat) (v : Byte) (s : State) : (s.setRawByte k v).errCode = s.errCode := rfl
@[simp] theorem State.setRawByte_errInfo (k : Nat) (v : Byte) (s : State) : (s.setRawByte k v).errInfo = s.errInfo := rfl
@[simp] theorem State.setRawByte_format (k : Nat) (v : Byte) (s : State) : (s.setRawByte k v).format = s.format := rfl
@[simp] theorem State.setRawByte_width (k : Nat) (v : Byte) (s : State) : (s.setRawByte k v).width = s.width := rfl
@[simp] theorem State.setRawByte_rawAddr (k : Nat) (v : Byte) (s : State) : (s.setRawByte k v).rawAddr = s.rawAddr := rfl
@[simp] theorem State.setRawByte_reconAddr (k : Nat) (v : Byte) (s : State) : (s.setRawByte k v).reconAddr = s.reconAddr := rfl
@[simp] theorem State.setRawByte_palAddr (k : Nat) (v : Byte) (s : State) : (s.setRawByte k v).palAddr = s.palAddr := rfl
@[simp] theorem State.setRawByte_palSize (k : Nat) (v : Byte) (s : State) : (s.setRawByte k v).palSize = s.palSize := rfl
@[simp] theorem State.setRawByte_pixIndex (k : Nat) (v : Byte) (s : State) : (s.setRawByte k v).pixIndex = s.pixIndex := rfl
@[simp] theorem State.setRawByte_pixR (k : Nat) (v : Byte) (s : State) : (s.setRawByte k v).pixR = s.pixR := rfl
@[simp] theorem State.setRawByte_pixG (k : Nat) (v : Byte) (s : State) : (s.setRawByte k v).pixG = s.pixG := rfl
@[simp] theorem State.setRawByte_pixB (k : Nat) (v : Byte) (s : State) : (s.setRawByte k v).pixB = s.pixB := rfl
@[simp] theorem State.setRawByte_pixA (k : Nat) (v : Byte) (s : State) : (s.setRawByte k v).pixA = s.pixA := rfl
@[simp] theorem State.setRawByte_raw (k : Nat) (v : Byte) (s : State) : (s.setRawByte k v).raw = Memory.write rawUnlisted s.raw k v := rfl
@[simp] theorem State.setRawByte_recon (k : Nat) (v : Byte) (s : State) : (s.setRawByte k v).recon = s.recon := rfl
@[simp] theorem State.setRawByte_pal (k : Nat) (v : Byte) (s : State) : (s.setRawByte k v).pal = s.pal := rfl
@[simp] theorem State.setRawByte_pending (k : Nat) (v : Byte) (s : State) : (s.setRawByte k v).pending = s.pending := rfl
@[simp] theorem State.setRawByte_reads (k : Nat) (v : Byte) (s : State) : (s.setRawByte k v).reads = s.reads := rfl

/-! ## setPalEntry -/

@[simp] theorem State.setPalEntry_cfg (k : Nat) (v : Rgb) (s : State) : (s.setPalEntry k v).cfg = s.cfg := rfl
@[simp] theorem State.setPalEntry_err (k : Nat) (v : Rgb) (s : State) : (s.setPalEntry k v).err = s.err := rfl
@[simp] theorem State.setPalEntry_pixValid (k : Nat) (v : Rgb) (s : State) : (s.setPalEntry k v).pixValid = s.pixValid := rfl
@[simp] theorem State.setPalEntry_errCode (k : Nat) (v : Rgb) (s : State) : (s.setPalEntry k v).errCode = s.errCode := rfl
@[simp] theorem State.setPalEntry_errInfo (k : Nat) (v : Rgb) (s : State) : (s.setPalEntry k v).errInfo = s.errInfo := rfl
@[simp] theorem State.setPalEntry_format (k : Nat) (v : Rgb) (s : State) : (s.setPalEntry k v).format = s.format := rfl
@[simp] theorem State.setPalEntry_width (k : Nat) (v : Rgb) (s : State) : (s.setPalEntry k v).width = s.width := rfl
@[simp] theorem State.setPalEntry_rawAddr (k : Nat) (v : Rgb) (s : State) : (s.setPalEntry k v).rawAddr = s.rawAddr := rfl
@[simp] theorem State.setPalEntry_reconAddr (k : Nat) (v : Rgb) (s : State) : (s.setPalEntry k v).reconAddr = s.reconAddr := rfl
@[simp] theorem State.setPalEntry_palAddr (k : Nat) (v : Rgb) (s : State) : (s.setPalEntry k v).palAddr = s.palAddr := rfl
@[simp] theorem State.setPalEntry_palSize (k : Nat) (v : Rgb) (s : State) : (s.setPalEntry k v).palSize = s.palSize := rfl
@[simp] theorem State.setPalEntry_pixIndex (k : Nat) (v : Rgb) (s : State) : (s.setPalEntry k v).pixIndex = s.pixIndex := rfl
@[simp] theorem State.setPalEntry_pixR (k : Nat) (v : Rgb) (s : State) : (s.setPalEntry k v).pixR = s.pixR := rfl
@[simp] theorem State.setPalEntry_pixG (k : Nat) (v : Rgb) (s : State) : (s.setPalEntry k v).pixG = s.pixG := rfl
@[simp] theorem State.setPalEntry_pixB (k : Nat) (v : Rgb) (s : State) : (s.setPalEntry k v).pixB = s.pixB := rfl
@[simp] theorem State.setPalEntry_pixA (k : Nat) (v : Rgb) (s : State) : (s.setPalEntry k v).pixA = s.pixA := rfl
@[simp] theorem State.setPalEntry_raw (k : Nat) (v : Rgb) (s : State) : (s.setPalEntry k v).raw = s.raw := rfl
@[simp] theorem State.setPalEntry_recon (k : Nat) (v : Rgb) (s : State) : (s.setPalEntry k v).recon = s.recon := rfl
@[simp] theorem State.setPalEntry_pal (k : Nat) (v : Rgb) (s : State) : (s.setPalEntry k v).pal = Memory.write palUnlisted s.pal k v := rfl
@[simp] theorem State.setPalEntry_pending (k : Nat) (v : Rgb) (s : State) : (s.setPalEntry k v).pending = s.pending := rfl
@[simp] theorem State.setPalEntry_reads (k : Nat) (v : Rgb) (s : State) : (s.setPalEntry k v).reads = s.reads := rfl

/-! ## setReconRow -/

@[simp] theorem State.setReconRow_cfg (row : List Byte) (s : State) : (s.setReconRow row).cfg = s.cfg := rfl
@[simp] theorem State.setReconRow_err (row : List Byte) (s : State) : (s.setReconRow row).err = s.err := rfl
@[simp] theorem State.setReconRow_pixValid (row : List Byte) (s : State) : (s.setReconRow row).pixValid = s.pixValid := rfl
@[simp] theorem State.setReconRow_errCode (row : List Byte) (s : State) : (s.setReconRow row).errCode = s.errCode := rfl
@[simp] theorem State.setReconRow_errInfo (row : List Byte) (s : State) : (s.setReconRow row).errInfo = s.errInfo := rfl
@[simp] theorem State.setReconRow_format (row : List Byte) (s : State) : (s.setReconRow row).format = s.format := rfl
@[simp] theorem State.setReconRow_width (row : List Byte) (s : State) : (s.setReconRow row).width = s.width := rfl
@[simp] theorem State.setReconRow_rawAddr (row : List Byte) (s : State) : (s.setReconRow row).rawAddr = s.rawAddr := rfl
@[simp] theorem State.setReconRow_reconAddr (row : List Byte) (s : State) : (s.setReconRow row).reconAddr = s.reconAddr := rfl
@[simp] theorem State.setReconRow_palAddr (row : List Byte) (s : State) : (s.setReconRow row).palAddr = s.palAddr := rfl
@[simp] theorem State.setReconRow_palSize (row : List Byte) (s : State) : (s.setReconRow row).palSize = s.palSize := rfl
@[simp] theorem State.setReconRow_pixIndex (row : List Byte) (s : State) : (s.setReconRow row).pixIndex = s.pixIndex := rfl
@[simp] theorem State.setReconRow_pixR (row : List Byte) (s : State) : (s.setReconRow row).pixR = s.pixR := rfl
@[simp] theorem State.setReconRow_pixG (row : List Byte) (s : State) : (s.setReconRow row).pixG = s.pixG := rfl
@[simp] theorem State.setReconRow_pixB (row : List Byte) (s : State) : (s.setReconRow row).pixB = s.pixB := rfl
@[simp] theorem State.setReconRow_pixA (row : List Byte) (s : State) : (s.setReconRow row).pixA = s.pixA := rfl
@[simp] theorem State.setReconRow_raw (row : List Byte) (s : State) : (s.setReconRow row).raw = s.raw := rfl
@[simp] theorem State.setReconRow_recon (row : List Byte) (s : State) : (s.setReconRow row).recon = reconWriteRow s.recon 0 row := rfl
@[simp] theorem State.setReconRow_pal (row : List Byte) (s : State) : (s.setReconRow row).pal = s.pal := rfl
@[simp] theorem State.setReconRow_pending (row : List Byte) (s : State) : (s.setReconRow row).pending = s.pending := rfl
@[simp] theorem State.setReconRow_reads (row : List Byte) (s : State) : (s.setReconRow row).reads = s.reads := rfl

/-! ## clearRecon -/

@[simp] theorem State.clearRecon_cfg (s : State) : (s.clearRecon).cfg = s.cfg := rfl
@[simp] theorem State.clearRecon_err (s : State) : (s.clearRecon).err = s.err := rfl
@[simp] theorem State.clearRecon_pixValid (s : State) : (s.clearRecon).pixValid = s.pixValid := rfl
@[simp] theorem State.clearRecon_errCode (s : State) : (s.clearRecon).errCode = s.errCode := rfl
@[simp] theorem State.clearRecon_errInfo (s : State) : (s.clearRecon).errInfo = s.errInfo := rfl
@[simp] theorem State.clearRecon_format (s : State) : (s.clearRecon).format = s.format := rfl
@[simp] theorem State.clearRecon_width (s : State) : (s.clearRecon).width = s.width := rfl
@[simp] theorem State.clearRecon_rawAddr (s : State) : (s.clearRecon).rawAddr = s.rawAddr := rfl
@[simp] theorem State.clearRecon_reconAddr (s : State) : (s.clearRecon).reconAddr = s.reconAddr := rfl
@[simp] theorem State.clearRecon_palAddr (s : State) : (s.clearRecon).palAddr = s.palAddr := rfl
@[simp] theorem State.clearRecon_palSize (s : State) : (s.clearRecon).palSize = s.palSize := rfl
@[simp] theorem State.clearRecon_pixIndex (s : State) : (s.clearRecon).pixIndex = s.pixIndex := rfl
@[simp] theorem State.clearRecon_pixR (s : State) : (s.clearRecon).pixR = s.pixR := rfl
@[simp] theorem State.clearRecon_pixG (s : State) : (s.clearRecon).pixG = s.pixG := rfl
@[simp] theorem State.clearRecon_pixB (s : State) : (s.clearRecon).pixB = s.pixB := rfl
@[simp] theorem State.clearRecon_pixA (s : State) : (s.clearRecon).pixA = s.pixA := rfl
@[simp] theorem State.clearRecon_raw (s : State) : (s.clearRecon).raw = s.raw := rfl
@[simp] theorem State.clearRecon_recon (s : State) : (s.clearRecon).recon = [] := rfl
@[simp] theorem State.clearRecon_pal (s : State) : (s.clearRecon).pal = s.pal := rfl
@[simp] theorem State.clearRecon_pending (s : State) : (s.clearRecon).pending = s.pending := rfl
@[simp] theorem State.clearRecon_reads (s : State) : (s.clearRecon).reads = s.reads := rfl

/-! ## doReset -/

@[simp] theorem State.doReset_cfg (s : State) : (s.doReset).cfg = s.cfg := rfl
@[simp] theorem State.doReset_err (s : State) : (s.doReset).err = false := rfl
@[simp] theorem State.doReset_pixValid (s : State) : (s.doReset).pixValid = false := rfl
@[simp] theorem State.doReset_errCode (s : State) : (s.doReset).errCode = 0 := rfl
@[simp] theorem State.doReset_errInfo (s : State) : (s.doReset).errInfo = 0 := rfl
@[simp] theorem State.doReset_format (s : State) : (s.doReset).format = 0 := rfl
@[simp] theorem State.doReset_width (s : State) : (s.doReset).width = 0 := rfl
@[simp] theorem State.doReset_rawAddr (s : State) : (s.doReset).rawAddr = 0 := rfl
@[simp] theorem State.doReset_reconAddr (s : State) : (s.doReset).reconAddr = 0 := rfl
@[simp] theorem State.doReset_palAddr (s : State) : (s.doReset).palAddr = 0 := rfl
@[simp] theorem State.doReset_palSize (s : State) : (s.doReset).palSize = 0 := rfl
@[simp] theorem State.doReset_pixIndex (s : State) : (s.doReset).pixIndex = 0 := rfl
@[simp] theorem State.doReset_pixR (s : State) : (s.doReset).pixR = 0 := rfl
@[simp] theorem State.doReset_pixG (s : State) : (s.doReset).pixG = 0 := rfl
@[simp] theorem State.doReset_pixB (s : State) : (s.doReset).pixB = 0 := rfl
@[simp] theorem State.doReset_pixA (s : State) : (s.doReset).pixA = 0 := rfl
@[simp] theorem State.doReset_raw (s : State) : (s.doReset).raw = [] := rfl
@[simp] theorem State.doReset_recon (s : State) : (s.doReset).recon = [] := rfl
@[simp] theorem State.doReset_pal (s : State) : (s.doReset).pal = [] := rfl
@[simp] theorem State.doReset_pending (s : State) : (s.doReset).pending = s.pending := rfl
@[simp] theorem State.doReset_reads (s : State) : (s.doReset).reads = s.reads := rfl

/-! ## returnRead -/

@[simp] theorem State.returnRead_cfg (v : Word) (s : State) : (s.returnRead v).cfg = s.cfg := rfl
@[simp] theorem State.returnRead_err (v : Word) (s : State) : (s.returnRead v).err = s.err := rfl
@[simp] theorem State.returnRead_pixValid (v : Word) (s : State) : (s.returnRead v).pixValid = s.pixValid := rfl
@[simp] theorem State.returnRead_errCode (v : Word) (s : State) : (s.returnRead v).errCode = s.errCode := rfl
@[simp] theorem State.returnRead_errInfo (v : Word) (s : State) : (s.returnRead v).errInfo = s.errInfo := rfl
@[simp] theorem State.returnRead_format (v : Word) (s : State) : (s.returnRead v).format = s.format := rfl
@[simp] theorem State.returnRead_width (v : Word) (s : State) : (s.returnRead v).width = s.width := rfl
@[simp] theorem State.returnRead_rawAddr (v : Word) (s : State) : (s.returnRead v).rawAddr = s.rawAddr := rfl
@[simp] theorem State.returnRead_reconAddr (v : Word) (s : State) : (s.returnRead v).reconAddr = s.reconAddr := rfl
@[simp] theorem State.returnRead_palAddr (v : Word) (s : State) : (s.returnRead v).palAddr = s.palAddr := rfl
@[simp] theorem State.returnRead_palSize (v : Word) (s : State) : (s.returnRead v).palSize = s.palSize := rfl
@[simp] theorem State.returnRead_pixIndex (v : Word) (s : State) : (s.returnRead v).pixIndex = s.pixIndex := rfl
@[simp] theorem State.returnRead_pixR (v : Word) (s : State) : (s.returnRead v).pixR = s.pixR := rfl
@[simp] theorem State.returnRead_pixG (v : Word) (s : State) : (s.returnRead v).pixG = s.pixG := rfl
@[simp] theorem State.returnRead_pixB (v : Word) (s : State) : (s.returnRead v).pixB = s.pixB := rfl
@[simp] theorem State.returnRead_pixA (v : Word) (s : State) : (s.returnRead v).pixA = s.pixA := rfl
@[simp] theorem State.returnRead_raw (v : Word) (s : State) : (s.returnRead v).raw = s.raw := rfl
@[simp] theorem State.returnRead_recon (v : Word) (s : State) : (s.returnRead v).recon = s.recon := rfl
@[simp] theorem State.returnRead_pal (v : Word) (s : State) : (s.returnRead v).pal = s.pal := rfl
@[simp] theorem State.returnRead_pending (v : Word) (s : State) : (s.returnRead v).pending = s.pending := rfl
@[simp] theorem State.returnRead_reads (v : Word) (s : State) : (s.returnRead v).reads = s.reads ++ [v] := rfl

/-! ## setPixel -/

@[simp] theorem State.setPixel_cfg (r g b a : Channel) (s : State) : (s.setPixel r g b a).cfg = s.cfg := rfl
@[simp] theorem State.setPixel_err (r g b a : Channel) (s : State) : (s.setPixel r g b a).err = s.err := rfl
@[simp] theorem State.setPixel_pixValid (r g b a : Channel) (s : State) : (s.setPixel r g b a).pixValid = true := rfl
@[simp] theorem State.setPixel_errCode (r g b a : Channel) (s : State) : (s.setPixel r g b a).errCode = s.errCode := rfl
@[simp] theorem State.setPixel_errInfo (r g b a : Channel) (s : State) : (s.setPixel r g b a).errInfo = s.errInfo := rfl
@[simp] theorem State.setPixel_format (r g b a : Channel) (s : State) : (s.setPixel r g b a).format = s.format := rfl
@[simp] theorem State.setPixel_width (r g b a : Channel) (s : State) : (s.setPixel r g b a).width = s.width := rfl
@[simp] theorem State.setPixel_rawAddr (r g b a : Channel) (s : State) : (s.setPixel r g b a).rawAddr = s.rawAddr := rfl
@[simp] theorem State.setPixel_reconAddr (r g b a : Channel) (s : State) : (s.setPixel r g b a).reconAddr = s.reconAddr := rfl
@[simp] theorem State.setPixel_palAddr (r g b a : Channel) (s : State) : (s.setPixel r g b a).palAddr = s.palAddr := rfl
@[simp] theorem State.setPixel_palSize (r g b a : Channel) (s : State) : (s.setPixel r g b a).palSize = s.palSize := rfl
@[simp] theorem State.setPixel_pixIndex (r g b a : Channel) (s : State) : (s.setPixel r g b a).pixIndex = s.pixIndex := rfl
@[simp] theorem State.setPixel_pixR (r g b a : Channel) (s : State) : (s.setPixel r g b a).pixR = r := rfl
@[simp] theorem State.setPixel_pixG (r g b a : Channel) (s : State) : (s.setPixel r g b a).pixG = g := rfl
@[simp] theorem State.setPixel_pixB (r g b a : Channel) (s : State) : (s.setPixel r g b a).pixB = b := rfl
@[simp] theorem State.setPixel_pixA (r g b a : Channel) (s : State) : (s.setPixel r g b a).pixA = a := rfl
@[simp] theorem State.setPixel_raw (r g b a : Channel) (s : State) : (s.setPixel r g b a).raw = s.raw := rfl
@[simp] theorem State.setPixel_recon (r g b a : Channel) (s : State) : (s.setPixel r g b a).recon = s.recon := rfl
@[simp] theorem State.setPixel_pal (r g b a : Channel) (s : State) : (s.setPixel r g b a).pal = s.pal := rfl
@[simp] theorem State.setPixel_pending (r g b a : Channel) (s : State) : (s.setPixel r g b a).pending = s.pending := rfl
@[simp] theorem State.setPixel_reads (r g b a : Channel) (s : State) : (s.setPixel r g b a).reads = s.reads := rfl

/-! ## noPixel -/

@[simp] theorem State.noPixel_cfg (s : State) : (s.noPixel).cfg = s.cfg := rfl
@[simp] theorem State.noPixel_err (s : State) : (s.noPixel).err = s.err := rfl
@[simp] theorem State.noPixel_pixValid (s : State) : (s.noPixel).pixValid = false := rfl
@[simp] theorem State.noPixel_errCode (s : State) : (s.noPixel).errCode = s.errCode := rfl
@[simp] theorem State.noPixel_errInfo (s : State) : (s.noPixel).errInfo = s.errInfo := rfl
@[simp] theorem State.noPixel_format (s : State) : (s.noPixel).format = s.format := rfl
@[simp] theorem State.noPixel_width (s : State) : (s.noPixel).width = s.width := rfl
@[simp] theorem State.noPixel_rawAddr (s : State) : (s.noPixel).rawAddr = s.rawAddr := rfl
@[simp] theorem State.noPixel_reconAddr (s : State) : (s.noPixel).reconAddr = s.reconAddr := rfl
@[simp] theorem State.noPixel_palAddr (s : State) : (s.noPixel).palAddr = s.palAddr := rfl
@[simp] theorem State.noPixel_palSize (s : State) : (s.noPixel).palSize = s.palSize := rfl
@[simp] theorem State.noPixel_pixIndex (s : State) : (s.noPixel).pixIndex = s.pixIndex := rfl
@[simp] theorem State.noPixel_pixR (s : State) : (s.noPixel).pixR = 0 := rfl
@[simp] theorem State.noPixel_pixG (s : State) : (s.noPixel).pixG = 0 := rfl
@[simp] theorem State.noPixel_pixB (s : State) : (s.noPixel).pixB = 0 := rfl
@[simp] theorem State.noPixel_pixA (s : State) : (s.noPixel).pixA = 0 := rfl
@[simp] theorem State.noPixel_raw (s : State) : (s.noPixel).raw = s.raw := rfl
@[simp] theorem State.noPixel_recon (s : State) : (s.noPixel).recon = s.recon := rfl
@[simp] theorem State.noPixel_pal (s : State) : (s.noPixel).pal = s.pal := rfl
@[simp] theorem State.noPixel_pending (s : State) : (s.noPixel).pending = s.pending := rfl
@[simp] theorem State.noPixel_reads (s : State) : (s.noPixel).reads = s.reads := rfl

/-! ## recorded -/

@[simp] theorem State.recorded_cfg (code : Byte) (info : Word) (s : State) : (s.recorded code info).cfg = s.cfg := rfl
@[simp] theorem State.recorded_err (code : Byte) (info : Word) (s : State) : (s.recorded code info).err = true := rfl
@[simp] theorem State.recorded_pixValid (code : Byte) (info : Word) (s : State) : (s.recorded code info).pixValid = s.pixValid := rfl
@[simp] theorem State.recorded_errCode (code : Byte) (info : Word) (s : State) : (s.recorded code info).errCode = code := rfl
@[simp] theorem State.recorded_errInfo (code : Byte) (info : Word) (s : State) : (s.recorded code info).errInfo = info := rfl
@[simp] theorem State.recorded_format (code : Byte) (info : Word) (s : State) : (s.recorded code info).format = s.format := rfl
@[simp] theorem State.recorded_width (code : Byte) (info : Word) (s : State) : (s.recorded code info).width = s.width := rfl
@[simp] theorem State.recorded_rawAddr (code : Byte) (info : Word) (s : State) : (s.recorded code info).rawAddr = s.rawAddr := rfl
@[simp] theorem State.recorded_reconAddr (code : Byte) (info : Word) (s : State) : (s.recorded code info).reconAddr = s.reconAddr := rfl
@[simp] theorem State.recorded_palAddr (code : Byte) (info : Word) (s : State) : (s.recorded code info).palAddr = s.palAddr := rfl
@[simp] theorem State.recorded_palSize (code : Byte) (info : Word) (s : State) : (s.recorded code info).palSize = s.palSize := rfl
@[simp] theorem State.recorded_pixIndex (code : Byte) (info : Word) (s : State) : (s.recorded code info).pixIndex = s.pixIndex := rfl
@[simp] theorem State.recorded_pixR (code : Byte) (info : Word) (s : State) : (s.recorded code info).pixR = s.pixR := rfl
@[simp] theorem State.recorded_pixG (code : Byte) (info : Word) (s : State) : (s.recorded code info).pixG = s.pixG := rfl
@[simp] theorem State.recorded_pixB (code : Byte) (info : Word) (s : State) : (s.recorded code info).pixB = s.pixB := rfl
@[simp] theorem State.recorded_pixA (code : Byte) (info : Word) (s : State) : (s.recorded code info).pixA = s.pixA := rfl
@[simp] theorem State.recorded_raw (code : Byte) (info : Word) (s : State) : (s.recorded code info).raw = s.raw := rfl
@[simp] theorem State.recorded_recon (code : Byte) (info : Word) (s : State) : (s.recorded code info).recon = s.recon := rfl
@[simp] theorem State.recorded_pal (code : Byte) (info : Word) (s : State) : (s.recorded code info).pal = s.pal := rfl
@[simp] theorem State.recorded_pending (code : Byte) (info : Word) (s : State) : (s.recorded code info).pending = s.pending := rfl
@[simp] theorem State.recorded_reads (code : Byte) (info : Word) (s : State) : (s.recorded code info).reads = s.reads := rfl

/-! ## raiseError -/

@[simp] theorem State.raiseError_cfg (c : ErrorCode) (info : Word) (s : State) :
    (s.raiseError c info).cfg = s.cfg := by
  unfold State.raiseError; split <;> simp_all
@[simp] theorem State.raiseError_err (c : ErrorCode) (info : Word) (s : State) :
    (s.raiseError c info).err = true := by
  unfold State.raiseError; split <;> simp_all
@[simp] theorem State.raiseError_pixValid (c : ErrorCode) (info : Word) (s : State) :
    (s.raiseError c info).pixValid = s.pixValid := by
  unfold State.raiseError; split <;> simp_all
@[simp] theorem State.raiseError_errCode (c : ErrorCode) (info : Word) (s : State) :
    (s.raiseError c info).errCode = if s.err then s.errCode else c.toByte := by
  unfold State.raiseError; split <;> simp_all
@[simp] theorem State.raiseError_errInfo (c : ErrorCode) (info : Word) (s : State) :
    (s.raiseError c info).errInfo = if s.err then s.errInfo else info := by
  unfold State.raiseError; split <;> simp_all
@[simp] theorem State.raiseError_format (c : ErrorCode) (info : Word) (s : State) :
    (s.raiseError c info).format = s.format := by
  unfold State.raiseError; split <;> simp_all
@[simp] theorem State.raiseError_width (c : ErrorCode) (info : Word) (s : State) :
    (s.raiseError c info).width = s.width := by
  unfold State.raiseError; split <;> simp_all
@[simp] theorem State.raiseError_rawAddr (c : ErrorCode) (info : Word) (s : State) :
    (s.raiseError c info).rawAddr = s.rawAddr := by
  unfold State.raiseError; split <;> simp_all
@[simp] theorem State.raiseError_reconAddr (c : ErrorCode) (info : Word) (s : State) :
    (s.raiseError c info).reconAddr = s.reconAddr := by
  unfold State.raiseError; split <;> simp_all
@[simp] theorem State.raiseError_palAddr (c : ErrorCode) (info : Word) (s : State) :
    (s.raiseError c info).palAddr = s.palAddr := by
  unfold State.raiseError; split <;> simp_all
@[simp] theorem State.raiseError_palSize (c : ErrorCode) (info : Word) (s : State) :
    (s.raiseError c info).palSize = s.palSize := by
  unfold State.raiseError; split <;> simp_all
@[simp] theorem State.raiseError_pixIndex (c : ErrorCode) (info : Word) (s : State) :
    (s.raiseError c info).pixIndex = s.pixIndex := by
  unfold State.raiseError; split <;> simp_all
@[simp] theorem State.raiseError_pixR (c : ErrorCode) (info : Word) (s : State) :
    (s.raiseError c info).pixR = s.pixR := by
  unfold State.raiseError; split <;> simp_all
@[simp] theorem State.raiseError_pixG (c : ErrorCode) (info : Word) (s : State) :
    (s.raiseError c info).pixG = s.pixG := by
  unfold State.raiseError; split <;> simp_all
@[simp] theorem State.raiseError_pixB (c : ErrorCode) (info : Word) (s : State) :
    (s.raiseError c info).pixB = s.pixB := by
  unfold State.raiseError; split <;> simp_all
@[simp] theorem State.raiseError_pixA (c : ErrorCode) (info : Word) (s : State) :
    (s.raiseError c info).pixA = s.pixA := by
  unfold State.raiseError; split <;> simp_all
@[simp] theorem State.raiseError_raw (c : ErrorCode) (info : Word) (s : State) :
    (s.raiseError c info).raw = s.raw := by
  unfold State.raiseError; split <;> simp_all
@[simp] theorem State.raiseError_recon (c : ErrorCode) (info : Word) (s : State) :
    (s.raiseError c info).recon = s.recon := by
  unfold State.raiseError; split <;> simp_all
@[simp] theorem State.raiseError_pal (c : ErrorCode) (info : Word) (s : State) :
    (s.raiseError c info).pal = s.pal := by
  unfold State.raiseError; split <;> simp_all
@[simp] theorem State.raiseError_pending (c : ErrorCode) (info : Word) (s : State) :
    (s.raiseError c info).pending = s.pending := by
  unfold State.raiseError; split <;> simp_all
@[simp] theorem State.raiseError_reads (c : ErrorCode) (info : Word) (s : State) :
    (s.raiseError c info).reads = s.reads := by
  unfold State.raiseError; split <;> simp_all

/-- With no error recorded, raising records it (60_exceptions.md R181). -/
theorem State.raiseError_of_no_error {s : State} (h : s.err = false) (c : ErrorCode) (info : Word) :
    s.raiseError c info = s.recorded c.toByte info := by
  simp [State.raiseError, State.recorded, h]

/-- With an error recorded, raising changes nothing (60_exceptions.md R181). -/
theorem State.raiseError_of_error {s : State} (h : s.err = true) (c : ErrorCode) (info : Word) :
    s.raiseError c info = s := by
  simp [State.raiseError, h]

/-! ## The three buffers after an update -/

@[simp] theorem State.rawByte_setRawByte (s : State) (a k : Nat) (v : Byte) :
    (s.setRawByte a v).rawByte k = if k = a then some v else s.rawByte k := by
  simp [State.rawByte, Memory.read_write]

@[simp] theorem State.palEntry_setPalEntry (s : State) (a k : Nat) (v : Rgb) :
    (s.setPalEntry a v).palEntry k = if k = a then some v else s.palEntry k := by
  simp [State.palEntry, Memory.read_write]

@[simp] theorem State.reconByte_clearRecon (s : State) (k : Nat) : s.clearRecon.reconByte k = 0 := rfl

@[simp] theorem State.reconByte_doReset (s : State) (k : Nat) : s.doReset.reconByte k = 0 := rfl

@[simp] theorem State.rawByte_doReset (s : State) (k : Nat) : s.doReset.rawByte k = none := rfl

@[simp] theorem State.palEntry_doReset (s : State) (k : Nat) : s.doReset.palEntry k = none := rfl

end Sys2Proof.Machine
end

