-- ==== Sys2Proof/Laws/Buffers.lean ====
section
/-! SUPPORT. The row reads and the row write: what a row of RAW or RECON holds, and RECON after a row is written. -/

namespace Sys2Proof.Machine

/-! ## RECON after a row is written -/

theorem read_reconWriteRow (row : List Byte) (m : Memory Byte) (k a : Nat) :
    (Memory.read reconUnlisted (reconWriteRow m k row) a).getD 0 =
      if k ≤ a ∧ a < k + row.length then row.getD (a - k) 0 else (Memory.read reconUnlisted m a).getD 0 := by
  induction row generalizing m k with
  | nil => simp [reconWriteRow]
  | cons v row ih =>
    simp only [reconWriteRow, ih, Memory.read_write, List.length_cons]
    by_cases h1 : k + 1 ≤ a ∧ a < k + 1 + row.length
    · rw [if_pos h1, if_pos (by omega), show a - k = a - (k + 1) + 1 by omega, List.getD_cons_succ]
    · rw [if_neg h1]
      by_cases h2 : a = k
      · subst h2; simp
      · rw [if_neg h2, if_neg (by omega)]

/-- A row written to RECON: its bytes from 0 on, the bytes past it as before (41_defilter.md R120). -/
theorem State.reconByte_setReconRow (s : State) (row : List Byte) (k : Nat) :
    (s.setReconRow row).reconByte k = if k < row.length then row.getD k 0 else s.reconByte k := by
  have h := read_reconWriteRow row s.recon 0 k
  simpa [State.reconByte] using h

theorem wf_reconWriteRow (row : List Byte) (m : Memory Byte) (k : Nat) (h : Memory.wf reconUnlisted m = true) :
    Memory.wf reconUnlisted (reconWriteRow m k row) = true := by
  induction row generalizing m k with
  | nil => exact h
  | cons v row ih => exact ih _ _ (Memory.wf_write _ _ _ _ h)

theorem below_reconWriteRow (row : List Byte) (m : Memory Byte) (k n : Nat) (hk : k + row.length ≤ n)
    (h : Memory.below n m = true) : Memory.below n (reconWriteRow m k row) = true := by
  induction row generalizing m k with
  | nil => exact h
  | cons v row ih =>
    simp only [List.length_cons] at hk
    exact ih _ _ (by omega) (Memory.below_write _ _ _ _ _ (by omega) h)

/-! ## A row of RECON -/

@[simp] theorem State.length_reconRow (s : State) (k n : Nat) : (s.reconRow k n).length = n := by
  induction n generalizing k with
  | zero => rfl
  | succ n ih => simp [State.reconRow, ih]

theorem State.getD_reconRow (s : State) (k n i : Nat) (h : i < n) : (s.reconRow k n).getD i 0 = s.reconByte (k + i) := by
  induction n generalizing k i with
  | zero => omega
  | succ n ih =>
    cases i with
    | zero => simp [State.reconRow]
    | succ i => simp only [State.reconRow, List.getD_cons_succ]; rw [ih _ _ (by omega)]; congr 1; omega

/-! ## A row of RAW -/

/-- Where every byte of a RAW row is written the read succeeds, and gives exactly those bytes. -/
theorem State.rawRow_ok (s : State) (k n : Nat) (h : ∀ i, i < n → s.rawByte (k + i) ≠ none) :
    ∃ row, s.rawRow k n = .ok row ∧ row.length = n ∧ ∀ i, i < n → s.rawByte (k + i) = some (row.getD i 0) := by
  induction n generalizing k with
  | zero => exact ⟨[], rfl, rfl, by omega⟩
  | succ n ih =>
    obtain ⟨b, hb⟩ := Option.ne_none_iff_exists'.mp (h 0 (by omega))
    obtain ⟨row, h1, h2, h3⟩ := ih (k + 1) fun i hi => by
      have := h (i + 1) (by omega)
      rwa [show k + (i + 1) = k + 1 + i by omega] at this
    refine ⟨b :: row, by simp_all [State.rawRow], by simp [h2], fun i hi => ?_⟩
    cases i with
    | zero => simpa using hb
    | succ i => rw [show k + (i + 1) = k + 1 + i by omega, h3 i (by omega), List.getD_cons_succ]

/-- A successful read of a RAW row has the row's length. -/
theorem State.length_rawRow {s : State} {k n : Nat} {row : List Byte} (h : s.rawRow k n = .ok row) :
    row.length = n := by
  induction n generalizing k row with
  | zero => simp [State.rawRow] at h; simp [← h]
  | succ n ih =>
    simp only [State.rawRow] at h
    split at h
    · cases h
    · split at h
      · cases h
      · next hr => cases h; simp [ih hr]

/-- The first unwritten byte of a RAW row is the model fault of reading it (00_scope.md R13). -/
theorem State.rawRow_fault (s : State) (k n i : Nat) (hi : i < n) (hn : s.rawByte (k + i) = none)
    (h : ∀ j, j < i → s.rawByte (k + j) ≠ none) : s.rawRow k n = .error (.rawUnwritten (k + i)) := by
  induction n generalizing k i with
  | zero => omega
  | succ n ih =>
    cases i with
    | zero => simp only [Nat.add_zero] at hn; simp [State.rawRow, hn]
    | succ i =>
      obtain ⟨b, hb⟩ := Option.ne_none_iff_exists'.mp (h 0 (by omega))
      simp only [Nat.add_zero] at hb
      rw [show k + (i + 1) = k + 1 + i by omega] at hn ⊢
      simp only [State.rawRow, hb]
      rw [ih (k + 1) i (by omega) hn fun j hj => by
        have := h (j + 1) (by omega)
        rwa [show k + (j + 1) = k + 1 + j by omega] at this]

end Sys2Proof.Machine
end

