-- ==== Sys2Proof/Laws/Encoding.lean ====
section
/-! SUPPORT. The fields of FORMAT and the two name tables of the encodings, each with its inverse. -/

namespace Sys2Proof

@[simp] theorem FormatBits.colorType_make (ct d : Byte) : FormatBits.colorType (FormatBits.make ct d) = ct := by
  simp only [FormatBits.colorType, FormatBits.make]
  exact BitVec.extractLsb'_append_eq_left

@[simp] theorem FormatBits.bitDepth_make (ct d : Byte) : FormatBits.bitDepth (FormatBits.make ct d) = d := by
  simp only [FormatBits.bitDepth, FormatBits.make]
  exact BitVec.extractLsb'_append_eq_right

/-- FORMAT[15:0] is its two fields. -/
theorem FormatBits.make_fields (f : FormatBits) : FormatBits.make (FormatBits.colorType f) (FormatBits.bitDepth f) = f := by
  apply BitVec.eq_of_toNat_eq
  simp only [FormatBits.make, FormatBits.colorType, FormatBits.bitDepth]
  rw [BitVec.toNat_append, BitVec.extractLsb'_toNat, BitVec.extractLsb'_toNat,
    ← Nat.shiftLeft_add_eq_or_of_lt (by omega), Nat.shiftLeft_eq, Nat.shiftRight_eq_div_pow]
  have := f.isLt
  omega

/-- A byte names a filter exactly when it is the filter's numeral (30_encoding.md R82). -/
theorem FilterType.ofByte_eq_some {b : Byte} {ft : FilterType} : FilterType.ofByte b = some ft ↔ b = ft.toByte := by
  constructor
  · unfold FilterType.ofByte
    intro h
    repeat' split at h
    all_goals first | (cases h; assumption) | cases h
  · rintro rfl; cases ft <;> rfl

/-- The bytes above 4 name no filter (30_encoding.md R82). -/
theorem FilterType.ofByte_eq_none {b : Byte} : FilterType.ofByte b = Option.none ↔ 4 < b.toNat := by
  unfold FilterType.ofByte
  constructor
  · intro h
    repeat' split at h
    all_goals first | (cases h; done) | bv_omega
  · intro h
    rw [if_neg (by bv_omega), if_neg (by bv_omega), if_neg (by bv_omega), if_neg (by bv_omega), if_neg (by bv_omega)]

theorem FilterType.toNat_toByte_le (ft : FilterType) : ft.toByte.toNat ≤ 4 := by cases ft <;> decide

/-- A byte names a colour model exactly when it is the model's COLOR_TYPE (30_encoding.md R83). -/
theorem ColorModel.ofByte_eq_some {ct : Byte} {m : ColorModel} : ColorModel.ofByte ct = some m ↔ ct = m.toByte := by
  constructor
  · unfold ColorModel.ofByte
    intro h
    repeat' split at h
    all_goals first | (cases h; assumption) | cases h
  · rintro rfl; cases m <;> rfl

theorem ColorModel.depthLegal_iff (m : ColorModel) (depth : Byte) :
    m.depthLegal depth = true ↔ depth.toNat ∈ m.legalDepths := by
  simp [ColorModel.depthLegal]

/-- The legal depths are among 1, 2, 4, 8 and 16; below 8 a pixel has one channel (30_encoding.md R84). -/
theorem ColorModel.legalDepths_cases {m : ColorModel} {d : Nat} (h : d ∈ m.legalDepths) :
    (d = 8 ∨ d = 16) ∨ ((d = 1 ∨ d = 2 ∨ d = 4) ∧ (m = .greyscale ∨ m = .palette)) := by
  cases m <;> simp [ColorModel.legalDepths] at h <;> simp <;> omega

namespace Machine

/-- `fmt_legal` (00_scope.md R11; 30_encoding.md R84): FORMAT holds the COLOR_TYPE of a model and a depth of its row. -/
theorem legalFormat_eq_some {f : FormatBits} {m : ColorModel} {d : Nat} :
    legalFormat f = some (m, d) ↔
      FormatBits.colorType f = m.toByte ∧ (FormatBits.bitDepth f).toNat = d ∧ d ∈ m.legalDepths := by
  unfold legalFormat
  constructor
  · intro h
    split at h
    · cases h
    · next m' hm =>
      split at h
      · next hd => cases h; exact ⟨ColorModel.ofByte_eq_some.mp hm, rfl, (ColorModel.depthLegal_iff _ _).mp hd⟩
      · cases h
  · rintro ⟨h1, h2, h3⟩
    subst h2
    rw [ColorModel.ofByte_eq_some.mpr h1]
    simp [(ColorModel.depthLegal_iff _ _).mpr h3]

theorem legalFormat_make {m : ColorModel} {depth : Byte} (h : depth.toNat ∈ m.legalDepths) :
    legalFormat (FormatBits.make m.toByte depth) = some (m, depth.toNat) := by
  rw [legalFormat_eq_some]; simp [h]

theorem legalDepths_of_legalFormat {f : FormatBits} {m : ColorModel} {d : Nat} (h : legalFormat f = some (m, d)) :
    d ∈ m.legalDepths := (legalFormat_eq_some.mp h).2.2

/-- Every legal pair has 1 to 64 bits per pixel (00_scope.md R11). -/
theorem bitsPerPixel_bounds {m : ColorModel} {d : Nat} (h : d ∈ m.legalDepths) :
    1 ≤ bitsPerPixel m d ∧ bitsPerPixel m d ≤ 64 := by
  have := ColorModel.legalDepths_cases h
  cases m <;> simp [bitsPerPixel, channels] at this ⊢ <;> omega

theorem one_le_bytesPerPixel (m : ColorModel) (d : Nat) : 1 ≤ bytesPerPixel m d := by simp [bytesPerPixel]

end Machine

end Sys2Proof
end

