-- ==== Sys2Proof/Laws/Rows.lean ====
section
/-! SUPPORT. The row transform of 41_defilter.md R121: its length, and what each byte of its result is. -/

namespace Sys2Proof.Machine

/-- The byte rebuilt at the position where `done` ends. -/
def nextByte (ft : FilterType) (bpp : Nat) (prev done : List Byte) (x : Byte) : Byte :=
  x + predictor ft (strideBack done bpp done.length) (prev.getD done.length 0) (strideBack prev bpp done.length)

theorem defilterFrom_cons (ft : FilterType) (bpp : Nat) (prev done : List Byte) (x : Byte) (rest : List Byte) :
    defilterFrom ft bpp prev done (x :: rest) = defilterFrom ft bpp prev (done ++ [nextByte ft bpp prev done x]) rest :=
  rfl

theorem length_defilterFrom (ft : FilterType) (bpp : Nat) (prev done x : List Byte) :
    (defilterFrom ft bpp prev done x).length = done.length + x.length := by
  induction x generalizing done with
  | nil => simp [defilterFrom]
  | cons v x ih => rw [defilterFrom_cons, ih]; simp; omega

@[simp] theorem length_defilterRow (ft : FilterType) (bpp : Nat) (prev x : List Byte) :
    (defilterRow ft bpp prev x).length = x.length := by
  simp [defilterRow, length_defilterFrom]

/-- The bytes already done are a start of the result: the transform never rewrites a byte. -/
theorem defilterFrom_starts (ft : FilterType) (bpp : Nat) (prev done x : List Byte) :
    ∃ tail, defilterFrom ft bpp prev done x = done ++ tail := by
  induction x generalizing done with
  | nil => exact ⟨[], by simp [defilterFrom]⟩
  | cons v x ih =>
    obtain ⟨tail, h⟩ := ih (done ++ [nextByte ft bpp prev done v])
    exact ⟨nextByte ft bpp prev done v :: tail, by rw [defilterFrom_cons, h]; simp⟩

theorem getD_append_of_lt {a b : List Byte} {i : Nat} (h : i < a.length) : (a ++ b).getD i 0 = a.getD i 0 := by
  simp [List.getD_eq_getElem?_getD, List.getElem?_append_left h]

/-- `strideBack` looks only at bytes before its position. -/
theorem strideBack_append (a b : List Byte) (bpp i : Nat) (hb : 1 ≤ bpp) (hi : i ≤ a.length) :
    strideBack (a ++ b) bpp i = strideBack a bpp i := by
  unfold strideBack
  split
  · exact getD_append_of_lt (by omega)
  · rfl

/-- Every byte the transform adds is rebuilt against the finished row itself (left) and the previous row. -/
theorem getD_defilterFrom (ft : FilterType) (bpp : Nat) (prev done x : List Byte) (hb : 1 ≤ bpp) (i : Nat)
    (h1 : done.length ≤ i) (h2 : i < done.length + x.length) :
    (defilterFrom ft bpp prev done x).getD i 0 =
      x.getD (i - done.length) 0 + predictor ft (strideBack (defilterFrom ft bpp prev done x) bpp i)
        (prev.getD i 0) (strideBack prev bpp i) := by
  induction x generalizing done with
  | nil => simp at h2; omega
  | cons v x ih =>
    rw [defilterFrom_cons]
    by_cases h : i = done.length
    · subst h
      obtain ⟨tail, ht⟩ := defilterFrom_starts ft bpp prev (done ++ [nextByte ft bpp prev done v]) x
      rw [ht, List.append_assoc, strideBack_append _ _ _ _ hb le_rfl]
      simp [nextByte, List.getD_eq_getElem?_getD]
    · rw [ih _ (by simp; omega) (by simp at h2 ⊢; omega)]
      congr 1
      rw [show i - done.length = i - (done ++ [nextByte ft bpp prev done v]).length + 1 by simp; omega,
        List.getD_cons_succ]

@[simp] theorem length_filterRow (ft : FilterType) (bpp : Nat) (prev orig : List Byte) :
    (filterRow ft bpp prev orig).length = orig.length := by
  simp [filterRow]

theorem getD_filterRow (ft : FilterType) (bpp : Nat) (prev orig : List Byte) (i : Nat) (h : i < orig.length) :
    (filterRow ft bpp prev orig).getD i 0 = filterByte ft bpp prev orig i := by
  simp [filterRow, List.getD_eq_getElem?_getD, h]

end Sys2Proof.Machine
end

