-- ==== Sys2Proof/Laws/Commands.lean ====
section
/-! SUPPORT. The meanings, said once: the gate of DEFILTER and the gate of EXTRACT case by case, each filter and each
variant as one call of a shared operation, and everything an instruction can do when it answers a next state. -/

namespace Sys2Proof.Machine

variable {s t : State} {m : ColorModel} {d : Nat}

/-! ## The gate of DEFILTER (41_defilter.md R120) -/

theorem defilterGate_of_error (h : s.err = true) (run : ColorModel → Nat → Host.Outcome State Fault Refusal) :
    defilterGate s run = .next s := by
  simp [defilterGate, h]

theorem defilterGate_of_illegal (h : s.err = false) (hf : legalFormat s.format = none)
    (run : ColorModel → Nat → Host.Outcome State Fault Refusal) :
    defilterGate s run = .next (s.recorded 0x02 (s.format.setWidth 32)) := by
  simp [defilterGate, h, hf, State.raiseError_of_no_error h, ErrorCode.toByte]

theorem defilterGate_of_length (h : s.err = false) (hf : legalFormat s.format = some (m, d))
    (hl : rowLength m d s.width = 0 ∨ s.cfg.rowBytesMax < rowLength m d s.width)
    (run : ColorModel → Nat → Host.Outcome State Fault Refusal) :
    defilterGate s run = .next (s.recorded 0x03 (saturate (rowLength m d s.width))) := by
  simp only [defilterGate, h, hf, if_pos hl]
  simp [State.raiseError_of_no_error h, ErrorCode.toByte]

theorem defilterGate_of_row (h : s.err = false) (hf : legalFormat s.format = some (m, d))
    (h1 : 1 ≤ rowLength m d s.width) (h2 : rowLength m d s.width ≤ s.cfg.rowBytesMax)
    (run : ColorModel → Nat → Host.Outcome State Fault Refusal) : defilterGate s run = run m d := by
  have hl : ¬(rowLength m d s.width = 0 ∨ s.cfg.rowBytesMax < rowLength m d s.width) := by omega
  simp only [defilterGate, h, hf, if_neg hl]
  simp

/-- Everything the gate can do. -/
theorem defilterGate_cases (s : State) (run : ColorModel → Nat → Host.Outcome State Fault Refusal) :
    (s.err = true ∧ defilterGate s run = .next s) ∨
    (∃ code info, s.err = false ∧ 1 ≤ code.toNat ∧ code.toNat ≤ 7 ∧
      defilterGate s run = .next (s.recorded code info)) ∨
    ∃ m d, s.err = false ∧ legalFormat s.format = some (m, d) ∧ 1 ≤ rowLength m d s.width ∧
      rowLength m d s.width ≤ s.cfg.rowBytesMax ∧ defilterGate s run = run m d := by
  cases h : s.err with
  | true => exact .inl ⟨rfl, defilterGate_of_error h run⟩
  | false =>
    refine .inr ?_
    cases hf : legalFormat s.format with
    | none => exact .inl ⟨_, _, rfl, by decide, by decide, defilterGate_of_illegal h hf run⟩
    | some p =>
      obtain ⟨m, d⟩ := p
      by_cases hl : rowLength m d s.width = 0 ∨ s.cfg.rowBytesMax < rowLength m d s.width
      · exact .inl ⟨_, _, rfl, by decide, by decide, defilterGate_of_length h hf hl run⟩
      · exact .inr ⟨m, d, rfl, rfl, by omega, by omega, defilterGate_of_row h hf (by omega) (by omega) run⟩

/-! ## The filters -/

/-- Each filter is the shared row transform behind the shared gate. -/
theorem exec_filter (ft : FilterType) (s : State) : exec ft.instr s = defilterGate s (defilterInto ft s) := by
  cases ft <;> rfl

/-- DEFILTER with a filter byte that names a filter is that filter (41_defilter.md R120). -/
theorem exec_defilter_of_filter {b : Byte} {ft : FilterType} (h0 : s.rawByte 0 = some b)
    (hb : FilterType.ofByte b = some ft) : exec .defilter s = exec ft.instr s := by
  rw [exec_filter]
  show execDefilter s = _
  simp only [execDefilter, h0, hb]
  rcases defilterGate_cases s (defilterInto ft s) with ⟨he, h⟩ | ⟨code, info, he, -, -, -⟩ | ⟨m, d, he, hf, h1, h2, -⟩
  · rw [h, defilterGate_of_error he]
  · cases hf : legalFormat s.format with
    | none => rw [defilterGate_of_illegal he hf, defilterGate_of_illegal he hf]
    | some p =>
      obtain ⟨m, d⟩ := p
      by_cases hl : rowLength m d s.width = 0 ∨ s.cfg.rowBytesMax < rowLength m d s.width
      · rw [defilterGate_of_length he hf hl, defilterGate_of_length he hf hl]
      · rw [defilterGate_of_row he hf (by omega) (by omega)]; cases ft <;> rfl
  · rw [defilterGate_of_row he hf h1 h2]; cases ft <;> rfl

/-- Where a DEFILTER can run to its end the filter does, each byte as 41_defilter.md R121 says. -/
theorem exec_filter_of_ready (ft : FilterType) (h : s.RowReady m d) :
    ∃ x, x.length = rowLength m d s.width ∧
      (∀ i, i < rowLength m d s.width → s.rawByte (1 + i) = some (x.getD i 0)) ∧
      exec ft.instr s = .next (s.setReconRow
        (defilterRow ft (bytesPerPixel m d) (s.reconRow 0 (rowLength m d s.width)) x)) := by
  obtain ⟨x, hx, hl, hb⟩ := s.rawRow_ok 1 (rowLength m d s.width) fun i hi => h.written _ (by omega) (by omega)
  refine ⟨x, hl, hb, ?_⟩
  rw [exec_filter, defilterGate_of_row h.no_error h.legal h.not_empty h.fits, defilterInto, hx]

/-! ## The gate of EXTRACT (42_pixel_extract.md R150) -/

/-- The variant of a colour model, behind the gate (42_pixel_extract.md R154 to R158). -/
def variantRun (s : State) : ColorModel → Nat → Nat → Host.Outcome State Fault Refusal
  | .greyscale, d, n =>
    .next (s.setPixel (channel s .greyscale d n 0) (channel s .greyscale d n 0) (channel s .greyscale d n 0)
      (opaqueAlpha d))
  | .rgb, d, n =>
    .next (s.setPixel (channel s .rgb d n 0) (channel s .rgb d n 1) (channel s .rgb d n 2) (opaqueAlpha d))
  | .palette, d, n =>
    if s.palSize.toNat ≤ sample s .palette d n 0 then
      .next (s.raiseError .paletteIndexRange (BitVec.ofNat 32 (sample s .palette d n 0)))
    else
      match s.palEntry (sample s .palette d n 0) with
      | none => .fault (.palUnwritten (sample s .palette d n 0))
      | some e => .next (s.setPixel (e.r.setWidth 16) (e.g.setWidth 16) (e.b.setWidth 16) 255)
  | .greyscaleAlpha, d, n =>
    .next (s.setPixel (channel s .greyscaleAlpha d n 0) (channel s .greyscaleAlpha d n 0)
      (channel s .greyscaleAlpha d n 0) (channel s .greyscaleAlpha d n 1))
  | .rgba, d, n =>
    .next (s.setPixel (channel s .rgba d n 0) (channel s .rgba d n 1) (channel s .rgba d n 2) (channel s .rgba d n 3))

/-- Each variant instruction is its variant behind the shared gate. -/
theorem exec_variant (m : ColorModel) (depth : Byte) (s : State) :
    exec (m.instr depth) s = extractWith m depth s (variantRun s m) := by
  cases m <;> rfl

/-- EXTRACT is the variant COLOR_TYPE names (30_encoding.md R85). -/
theorem exec_extract_of_variant (h : FormatBits.colorType s.format = m.toByte) :
    exec .extract s = exec (m.instr (FormatBits.bitDepth s.format)) s := by
  show execExtract s = _
  unfold execExtract
  rw [ColorModel.ofByte_eq_some.mpr h]
  cases m <;> rfl

/-- EXTRACT with a COLOR_TYPE of no model is INVALID_FORMAT (30_encoding.md R84). -/
theorem exec_extract_of_no_variant (h : ColorModel.ofByte (FormatBits.colorType s.format) = none) :
    exec .extract s = .next (s.raiseError .invalidFormat (s.format.setWidth 32)) := by
  show execExtract s = _
  unfold execExtract
  rw [h]

theorem extractWith_of_error (h : s.err = true) (depth : Byte) (run : Nat → Nat → Host.Outcome State Fault Refusal) :
    extractWith m depth s run = .next s := by
  simp [extractWith, h]

theorem extractWith_of_illegal {depth : Byte} (h : s.err = false) (hd : depth.toNat ∉ m.legalDepths)
    (run : Nat → Nat → Host.Outcome State Fault Refusal) :
    extractWith m depth s run = .next (s.recorded 0x02 ((FormatBits.make m.toByte depth).setWidth 32)) := by
  simp [extractWith, h, ColorModel.depthLegal, hd, State.raiseError_of_no_error h, ErrorCode.toByte]

theorem extractWith_of_length {depth : Byte} (h : s.err = false) (hd : depth.toNat ∈ m.legalDepths)
    (hl : s.cfg.rowBytesMax < rowLength m depth.toNat s.width)
    (run : Nat → Nat → Host.Outcome State Fault Refusal) :
    extractWith m depth s run = .next (s.recorded 0x03 (saturate (rowLength m depth.toNat s.width))) := by
  simp [extractWith, h, ColorModel.depthLegal, hd, hl, State.raiseError_of_no_error h, ErrorCode.toByte]

theorem extractWith_of_no_pixel {depth : Byte} (h : s.err = false) (hd : depth.toNat ∈ m.legalDepths)
    (hl : rowLength m depth.toNat s.width ≤ s.cfg.rowBytesMax)
    (hn : 8 * rowLength m depth.toNat s.width < (s.pixIndex.toNat + 1) * bitsPerPixel m depth.toNat)
    (run : Nat → Nat → Host.Outcome State Fault Refusal) :
    extractWith m depth s run = .next s.noPixel := by
  simp [extractWith, h, ColorModel.depthLegal, hd, Nat.not_lt.mpr hl, inRow, Nat.not_le.mpr hn]

theorem extractWith_of_ready {depth : Byte} (h : s.PixelReady m depth)
    (run : Nat → Nat → Host.Outcome State Fault Refusal) :
    extractWith m depth s run = run depth.toNat s.pixIndex.toNat := by
  simp [extractWith, h.no_error, ColorModel.depthLegal, h.legal, Nat.not_lt.mpr h.fits, inRow, h.in_row]

/-- Everything the gate can do. -/
theorem extractWith_cases (m : ColorModel) (depth : Byte) (s : State)
    (run : Nat → Nat → Host.Outcome State Fault Refusal) :
    (s.err = true ∧ extractWith m depth s run = .next s) ∨
    (∃ code info, s.err = false ∧ 1 ≤ code.toNat ∧ code.toNat ≤ 7 ∧
      extractWith m depth s run = .next (s.recorded code info)) ∨
    (s.err = false ∧ depth.toNat ∈ m.legalDepths ∧ rowLength m depth.toNat s.width ≤ s.cfg.rowBytesMax ∧
      8 * rowLength m depth.toNat s.width < (s.pixIndex.toNat + 1) * bitsPerPixel m depth.toNat ∧
      extractWith m depth s run = .next s.noPixel) ∨
    (s.PixelReady m depth ∧ extractWith m depth s run = run depth.toNat s.pixIndex.toNat) := by
  cases h : s.err with
  | true => exact .inl ⟨rfl, extractWith_of_error h depth run⟩
  | false =>
    refine .inr ?_
    by_cases hd : depth.toNat ∈ m.legalDepths
    · by_cases hl : s.cfg.rowBytesMax < rowLength m depth.toNat s.width
      · exact .inl ⟨_, _, rfl, by decide, by decide, extractWith_of_length h hd hl run⟩
      · refine .inr ?_
        by_cases hn : 8 * rowLength m depth.toNat s.width < (s.pixIndex.toNat + 1) * bitsPerPixel m depth.toNat
        · exact .inl ⟨rfl, hd, by omega, hn, extractWith_of_no_pixel h hd (by omega) hn run⟩
        · have hr : s.PixelReady m depth := ⟨h, hd, by omega, by omega⟩
          exact .inr ⟨hr, extractWith_of_ready hr run⟩
    · exact .inl ⟨_, _, rfl, by decide, by decide, extractWith_of_illegal h hd run⟩

/-- Everything a variant can do when it answers a next state. -/
theorem variantRun_next (s : State) (m : ColorModel) (d n : Nat) (h : s.err = false)
    (hn : variantRun s m d n = .next t) :
    (∃ code info, 1 ≤ code.toNat ∧ code.toNat ≤ 7 ∧ t = s.recorded code info) ∨
    ∃ r g b a, t = s.setPixel r g b a := by
  cases m with
  | palette =>
    simp only [variantRun] at hn
    split at hn
    · cases hn; exact .inl ⟨0x04, _, by decide, by decide, State.raiseError_of_no_error h _ _⟩
    · split at hn
      · cases hn
      · cases hn; exact .inr ⟨_, _, _, _, rfl⟩
  | greyscale => cases hn; exact .inr ⟨_, _, _, _, rfl⟩
  | rgb => cases hn; exact .inr ⟨_, _, _, _, rfl⟩
  | greyscaleAlpha => cases hn; exact .inr ⟨_, _, _, _, rfl⟩
  | rgba => cases hn; exact .inr ⟨_, _, _, _, rfl⟩

/-! ## Everything an instruction can do -/

/-- A DEFILTER or a filter that answers a next state. -/
theorem filter_next (ft : FilterType) (s : State) (h : exec ft.instr s = .next t) :
    (s.err = true ∧ t = s) ∨
    (∃ code info, s.err = false ∧ 1 ≤ code.toNat ∧ code.toNat ≤ 7 ∧ t = s.recorded code info) ∨
    ∃ m d row, s.err = false ∧ legalFormat s.format = some (m, d) ∧ row.length = rowLength m d s.width ∧
      rowLength m d s.width ≤ s.cfg.rowBytesMax ∧ t = s.setReconRow row := by
  rw [exec_filter] at h
  rcases defilterGate_cases s (defilterInto ft s) with ⟨he, hg⟩ | ⟨code, info, he, h1, h2, hg⟩ | ⟨m, d, he, hf, h1, h2, hg⟩
  · rw [hg] at h; cases h; exact .inl ⟨he, rfl⟩
  · rw [hg] at h; cases h; exact .inr (.inl ⟨_, _, he, h1, h2, rfl⟩)
  · rw [hg] at h
    simp only [defilterInto] at h
    split at h
    · cases h
    · next x hx => cases h; exact .inr (.inr ⟨m, d, _, he, hf, by simp [State.length_rawRow hx], h2, rfl⟩)

/-- DEFILTER when it answers a next state. -/
theorem defilter_next (s : State) (h : exec .defilter s = .next t) :
    (s.err = true ∧ t = s) ∨
    (∃ code info, s.err = false ∧ 1 ≤ code.toNat ∧ code.toNat ≤ 7 ∧ t = s.recorded code info) ∨
    ∃ m d row, s.err = false ∧ legalFormat s.format = some (m, d) ∧ row.length = rowLength m d s.width ∧
      rowLength m d s.width ≤ s.cfg.rowBytesMax ∧ t = s.setReconRow row := by
  cases h0 : s.rawByte 0 with
  | some b =>
    cases hb : FilterType.ofByte b with
    | some ft => exact filter_next ft s (by rwa [← exec_defilter_of_filter h0 hb])
    | none =>
      change execDefilter s = _ at h
      simp only [execDefilter, h0, hb] at h
      rcases defilterGate_cases s fun _ _ => .next (s.raiseError .invalidFilter (b.setWidth 32)) with
        ⟨he, hg⟩ | ⟨code, info, he, h1, h2, hg⟩ | ⟨m, d, he, hf, h1, h2, hg⟩
      · rw [hg] at h; cases h; exact .inl ⟨he, rfl⟩
      · rw [hg] at h; cases h; exact .inr (.inl ⟨_, _, he, h1, h2, rfl⟩)
      · rw [hg] at h; cases h
        exact .inr (.inl ⟨0x01, _, he, by decide, by decide, State.raiseError_of_no_error he _ _⟩)
  | none =>
    change execDefilter s = _ at h
    simp only [execDefilter, h0] at h
    rcases defilterGate_cases s fun _ _ => .fault (.rawUnwritten 0) with
      ⟨he, hg⟩ | ⟨code, info, he, h1, h2, hg⟩ | ⟨m, d, he, hf, h1, h2, hg⟩
    · rw [hg] at h; cases h; exact .inl ⟨he, rfl⟩
    · rw [hg] at h; cases h; exact .inr (.inl ⟨_, _, he, h1, h2, rfl⟩)
    · rw [hg] at h; cases h

/-- A variant instruction when it answers a next state. -/
theorem variant_next (m : ColorModel) (depth : Byte) (s : State) (h : exec (m.instr depth) s = .next t) :
    (s.err = true ∧ t = s) ∨
    (∃ code info, s.err = false ∧ 1 ≤ code.toNat ∧ code.toNat ≤ 7 ∧ t = s.recorded code info) ∨
    (s.err = false ∧ t = s.noPixel) ∨
    ∃ r g b a, s.err = false ∧ t = s.setPixel r g b a := by
  rw [exec_variant] at h
  rcases extractWith_cases m depth s (variantRun s m) with
    ⟨he, hg⟩ | ⟨code, info, he, h1, h2, hg⟩ | ⟨he, -, -, -, hg⟩ | ⟨hr, hg⟩
  · rw [hg] at h; cases h; exact .inl ⟨he, rfl⟩
  · rw [hg] at h; cases h; exact .inr (.inl ⟨_, _, he, h1, h2, rfl⟩)
  · rw [hg] at h; cases h; exact .inr (.inr (.inl ⟨he, rfl⟩))
  · rw [hg] at h
    rcases variantRun_next s m _ _ hr.no_error h with ⟨code, info, h1, h2, ht⟩ | ⟨r, g, b, a, ht⟩
    · exact .inr (.inl ⟨_, _, hr.no_error, h1, h2, ht⟩)
    · exact .inr (.inr (.inr ⟨r, g, b, a, hr.no_error, ht⟩))

/-- EXTRACT when it answers a next state. -/
theorem extract_next (s : State) (h : exec .extract s = .next t) :
    (s.err = true ∧ t = s) ∨
    (∃ code info, s.err = false ∧ 1 ≤ code.toNat ∧ code.toNat ≤ 7 ∧ t = s.recorded code info) ∨
    (s.err = false ∧ t = s.noPixel) ∨
    ∃ r g b a, s.err = false ∧ t = s.setPixel r g b a := by
  cases hm : ColorModel.ofByte (FormatBits.colorType s.format) with
  | some m =>
    rw [exec_extract_of_variant (ColorModel.ofByte_eq_some.mp hm)] at h
    exact variant_next m _ s h
  | none =>
    rw [exec_extract_of_no_variant hm] at h
    cases h
    cases he : s.err with
    | true => exact .inl ⟨rfl, State.raiseError_of_error he _ _⟩
    | false => exact .inr (.inl ⟨0x02, _, rfl, by decide, by decide, State.raiseError_of_no_error he _ _⟩)

/-- The instructions that store a row to RECON. -/
def Instr.storesRow (i : Instr) : Prop :=
  i ∈ [Instr.defilter, .filterNone, .filterSub, .filterUp, .filterAverage, .filterPaeth]

/-- The instructions that write the pixel registers. -/
def Instr.writesPixel (i : Instr) : Prop := i = .extract ∨ ∃ m depth, i = ColorModel.instr m depth

/-- Everything an instruction can do when it answers a next state. -/
inductive ExecEffect (i : Instr) (s : State) : State → Prop
  | same : ExecEffect i s s
  | recorded (code : Byte) (info : Word) (he : s.err = false) (hi : Instr.storesRow i ∨ Instr.writesPixel i)
      (h1 : 1 ≤ code.toNat) (h7 : code.toNat ≤ 7) : ExecEffect i s (s.recorded code info)
  | reset (hi : i = .reset) : ExecEffect i s s.doReset
  | cleared (hi : i = .clearPrev) (he : s.err = false) : ExecEffect i s s.clearRecon
  | stored (m : ColorModel) (d : Nat) (row : List Byte) (hi : Instr.storesRow i) (he : s.err = false)
      (hf : legalFormat s.format = some (m, d)) (hl : row.length = rowLength m d s.width)
      (hm : rowLength m d s.width ≤ s.cfg.rowBytesMax) : ExecEffect i s (s.setReconRow row)
  | noPixel (hi : Instr.writesPixel i) (he : s.err = false) : ExecEffect i s s.noPixel
  | pixel (r g b a : Channel) (hi : Instr.writesPixel i) (he : s.err = false) : ExecEffect i s (s.setPixel r g b a)

theorem ExecEffect.of_row {i : Instr} (hi : Instr.storesRow i)
    (h : (s.err = true ∧ t = s) ∨
      (∃ code info, s.err = false ∧ 1 ≤ code.toNat ∧ code.toNat ≤ 7 ∧ t = s.recorded code info) ∨
      ∃ m d row, s.err = false ∧ legalFormat s.format = some (m, d) ∧ row.length = rowLength m d s.width ∧
        rowLength m d s.width ≤ s.cfg.rowBytesMax ∧ t = s.setReconRow row) : ExecEffect i s t := by
  rcases h with ⟨-, rfl⟩ | ⟨code, info, he, h1, h2, rfl⟩ | ⟨m, d, row, he, hf, hl, hm, rfl⟩
  · exact .same
  · exact .recorded code info he (.inl hi) h1 h2
  · exact .stored m d row hi he hf hl hm

theorem ExecEffect.of_pixel {i : Instr} (hi : Instr.writesPixel i)
    (h : (s.err = true ∧ t = s) ∨
      (∃ code info, s.err = false ∧ 1 ≤ code.toNat ∧ code.toNat ≤ 7 ∧ t = s.recorded code info) ∨
      (s.err = false ∧ t = s.noPixel) ∨ ∃ r g b a, s.err = false ∧ t = s.setPixel r g b a) : ExecEffect i s t := by
  rcases h with ⟨-, rfl⟩ | ⟨code, info, he, h1, h2, rfl⟩ | ⟨he, rfl⟩ | ⟨r, g, b, a, he, rfl⟩
  · exact .same
  · exact .recorded code info he (.inr hi) h1 h2
  · exact .noPixel hi he
  · exact .pixel r g b a hi he

/-- The inversion of exec: a next state comes about in one of these ways. -/
theorem exec_next (i : Instr) (s : State) (h : exec i s = .next t) : ExecEffect i s t := by
  cases i with
  | nop => cases h; exact .same
  | reset => cases h; exact .reset rfl
  | clearPrev =>
    change execClearPrev s = _ at h
    unfold execClearPrev at h
    split at h
    · cases h; exact .same
    · next he => cases h; exact .cleared rfl (by simpa using he)
  | defilter => exact .of_row (by simp [Instr.storesRow]) (defilter_next s h)
  | filterNone => exact .of_row (by simp [Instr.storesRow]) (filter_next .none s h)
  | filterSub => exact .of_row (by simp [Instr.storesRow]) (filter_next .sub s h)
  | filterUp => exact .of_row (by simp [Instr.storesRow]) (filter_next .up s h)
  | filterAverage => exact .of_row (by simp [Instr.storesRow]) (filter_next .average s h)
  | filterPaeth => exact .of_row (by simp [Instr.storesRow]) (filter_next .paeth s h)
  | extract => exact .of_pixel (.inl rfl) (extract_next s h)
  | pixGreyscale depth => exact .of_pixel (.inr ⟨.greyscale, depth, rfl⟩) (variant_next .greyscale depth s h)
  | pixRgb depth => exact .of_pixel (.inr ⟨.rgb, depth, rfl⟩) (variant_next .rgb depth s h)
  | pixPalette depth => exact .of_pixel (.inr ⟨.palette, depth, rfl⟩) (variant_next .palette depth s h)
  | pixGreyscaleAlpha depth =>
    exact .of_pixel (.inr ⟨.greyscaleAlpha, depth, rfl⟩) (variant_next .greyscaleAlpha depth s h)
  | pixRgba depth => exact .of_pixel (.inr ⟨.rgba, depth, rfl⟩) (variant_next .rgba depth s h)

end Sys2Proof.Machine
end

