-- ==== Sys2Proof/Laws/Bus.lean ====
section
/-! SUPPORT. The bus, said once: which accesses have a step and what a step of each is, and every way a step answers a
next state. -/

namespace Sys2Proof.Machine

variable {s t : State}

/-! ## Steps of a read and of a write -/

theorem step_of_pending {i : Input} {rest : List Input} (h : s.pending = i :: rest) :
    step s = runInput i { s with pending := rest } := by
  simp [step, runPending, h]

theorem step_thenRead (s : State) {off : Nat} (h : off % 4 = 0) (hl : off < 0x80) :
    step (s.thenRead off) = readRegister (Reg.ofOffset off) s := by
  have h1 : s.cfg.base < s.cfg.base + off + 4 := by omega
  simp [step, runPending, State.thenRead, runInput, runAccess, Access.touches, Access.supported, h, hl, h1]

theorem step_thenWrite (s : State) {off : Nat} (w : Word) (h : off % 4 = 0) (hl : off < 0x80) :
    step (s.thenWrite off w) = writeRegister (Reg.ofOffset off) w s := by
  have h1 : s.cfg.base < s.cfg.base + off + 4 := by omega
  simp [step, runPending, State.thenWrite, runInput, runAccess, Access.touches, Access.supported, h, hl, h1]

/-! ## Loading an instruction -/

theorem step_loadCommand (s : State) (w : Word) : step (s.loadCommand w) = writeCmd w s :=
  step_thenWrite s (off := 0x00) w rfl (by decide)

/-- With the loading access taken off again, the state is the one loaded. -/
theorem State.loadCommand_done {s x : State} (h : x.pending = s.pending) (w : Word) :
    { x.loadCommand w with pending := s.pending } = x := by
  rw [← h]; rfl

@[simp] theorem State.rawByte_holdFilter_zero (s : State) (b : Byte) : (s.holdFilter b).rawByte 0 = some b := by
  unfold State.holdFilter; simp

theorem State.holdFilter_pending (s : State) (b : Byte) : (s.holdFilter b).pending = s.pending := rfl

theorem State.holdFormat_pending (s : State) (f : FormatBits) : (s.holdFormat f).pending = s.pending := rfl

@[simp] theorem State.holdFormat_format (s : State) (f : FormatBits) : (s.holdFormat f).format = f := rfl

/-! ## Every way an access answers a next state -/

/-- Every way an access answers a next state: outside the window nothing happens, inside it is a word access of the
host to a register. -/
theorem runAccess_next {a : Access} (h : runAccess a s = .next t) :
    (a.touches s.cfg = false ∧ t = s) ∨
    ∃ off op, off % 4 = 0 ∧ off < 0x80 ∧ a = { master := .host, addr := s.cfg.base + off, bytes := 4, op := op } ∧
      ((op = .read ∧ readRegister (Reg.ofOffset off) s = .next t) ∨
        ∃ w, op = .write w ∧ writeRegister (Reg.ofOffset off) w s = .next t) := by
  unfold runAccess at h
  split at h
  · next ht => cases h; exact .inl ⟨ht, rfl⟩
  · next ht =>
    refine .inr ?_
    split at h
    · cases h
    · next hm =>
      split at h
      · cases h
      · next hs =>
        simp only [Access.touches, Access.supported, Bool.and_eq_true, decide_eq_true_eq, Bool.not_eq_false] at ht hs
        obtain ⟨master, addr, bytes, op⟩ := a
        simp only at hm ht hs h
        refine ⟨addr - s.cfg.base, op, hs.2, by omega, ?_, ?_⟩
        · rw [hm, show s.cfg.base + (addr - s.cfg.base) = addr by omega, hs.1.1]
        · split at h
          · exact .inl ⟨rfl, h⟩
          · exact .inr ⟨_, rfl, h⟩

/-- An offset of the window's registers is the one the register map gives it (10_state.md R22). -/
theorem Reg.ofOffset_eq {off : Nat} {r : Reg} (h : Reg.ofOffset off = r) (hr : r ≠ .reserved) : off = r.offset := by
  unfold Reg.ofOffset at h
  split at h <;> first | (subst h; rfl) | (exact absurd h.symm hr)

/-- The register map read both ways (10_state.md R22). -/
theorem Reg.ofOffset_offset (r : Reg) : Reg.ofOffset r.offset = r := by cases r <;> rfl

/-! ## Every way a step answers a next state -/

/-- What one step can do to the state `s` (the pending input already taken off), by the input `i`. -/
inductive StepEffect (s : State) : Input → State → Prop
  | powerOn : StepEffect s .powerOn s.doReset
  | unseen (a : Access) : StepEffect s (.access a) s
  | read (t : State) (off : Nat) (hoff : off % 4 = 0) (hl : off < 0x80)
      (h : readRegister (Reg.ofOffset off) s = .next t) :
      StepEffect s (.access { master := .host, addr := s.cfg.base + off, bytes := 4, op := .read }) t
  | write (t : State) (off : Nat) (w : Word) (hoff : off % 4 = 0) (hl : off < 0x80)
      (h : writeRegister (Reg.ofOffset off) w s = .next t) :
      StepEffect s (.access { master := .host, addr := s.cfg.base + off, bytes := 4, op := .write w }) t

/-- The inversion of step. -/
theorem step_next (h : step s = .next t) :
    (s.pending = [] ∧ t = s) ∨
    ∃ i rest, s.pending = i :: rest ∧ StepEffect { s with pending := rest } i t := by
  cases hp : s.pending with
  | nil => simp [step, runPending, hp] at h; exact .inl ⟨rfl, h.symm⟩
  | cons i rest =>
    rw [step_of_pending hp] at h
    refine .inr ⟨i, rest, rfl, ?_⟩
    cases i with
    | powerOn => cases h; exact .powerOn
    | access a =>
      rcases runAccess_next h with ⟨-, rfl⟩ | ⟨off, op, h1, h2, rfl, ⟨rfl, hr⟩ | ⟨w, rfl, hw⟩⟩
      · exact .unseen a
      · exact .read t off h1 h2 hr
      · exact .write t off w h1 h2 hw

end Sys2Proof.Machine
end

