-- ==== Sys2Proof/Laws/PerInstr.lean ====
section
/-! SUPPORT. The statements made for every instruction: its code word has the width, and under the row's mask the
value, that its row of spec/opcode_table.json gives; and the table word of that width decodes back to it. -/

namespace Sys2Proof.Laws

/-- The width, mask and match of an instruction's row in spec/opcode_table.json. -/
def tableRow : Instr → Nat × Nat × Nat
  | .nop => (32, 0xFFFFFFFF, 0x00000000)
  | .clearPrev => (32, 0xFFFFFFFF, 0x00000001)
  | .defilter => (32, 0xFFFFFFFF, 0x00000002)
  | .extract => (32, 0xFFFFFFFF, 0x00000003)
  | .reset => (32, 0xFFFFFFFF, 0x00000004)
  | .filterNone => (8, 0xFF, 0x00)
  | .filterSub => (8, 0xFF, 0x01)
  | .filterUp => (8, 0xFF, 0x02)
  | .filterAverage => (8, 0xFF, 0x03)
  | .filterPaeth => (8, 0xFF, 0x04)
  | .pixGreyscale _ => (16, 0xFF00, 0x0000)
  | .pixRgb _ => (16, 0xFF00, 0x0200)
  | .pixPalette _ => (16, 0xFF00, 0x0300)
  | .pixGreyscaleAlpha _ => (16, 0xFF00, 0x0400)
  | .pixRgba _ => (16, 0xFF00, 0x0600)

/-- The BIT_DEPTH operand of an instruction, bits 7:0 of a format field; the other rows have no operand. -/
def operand : Instr → Nat
  | .pixGreyscale d => d.toNat
  | .pixRgb d => d.toNat
  | .pixPalette d => d.toNat
  | .pixGreyscaleAlpha d => d.toNat
  | .pixRgba d => d.toNat
  | _ => 0

/-- The code word's width and value. -/
def wordOf : CodeWord → Nat × Nat
  | .command w => (32, w.toNat)
  | .filter b => (8, b.toNat)
  | .format f => (16, f.toNat)

namespace EncodingMatchesTable

/-- The code word is the row's match with the operand added, in the row's width; its bits under the row's mask are the
match; and the decoder reads the instruction back from that word. -/
def Statement (i : Instr) : Prop :=
  wordOf (encode i) = ((tableRow i).1, (tableRow i).2.2 + operand i) ∧
  (wordOf (encode i)).2 &&& (tableRow i).2.1 = (tableRow i).2.2 ∧
  decodeTableWord (tableRow i).1 ((tableRow i).2.2 + operand i) = some i

theorem nop : Statement .nop := by unfold Statement; decide
theorem clearPrev : Statement .clearPrev := by unfold Statement; decide
theorem defilter : Statement .defilter := by unfold Statement; decide
theorem extract : Statement .extract := by unfold Statement; decide
theorem reset : Statement .reset := by unfold Statement; decide
theorem filterNone : Statement .filterNone := by unfold Statement; decide
theorem filterSub : Statement .filterSub := by unfold Statement; decide
theorem filterUp : Statement .filterUp := by unfold Statement; decide
theorem filterAverage : Statement .filterAverage := by unfold Statement; decide
theorem filterPaeth : Statement .filterPaeth := by unfold Statement; decide

theorem pixGreyscale (d : Byte) : Statement (.pixGreyscale d) := by
  revert d; unfold Statement; decide
theorem pixRgb (d : Byte) : Statement (.pixRgb d) := by
  revert d; unfold Statement; decide
theorem pixPalette (d : Byte) : Statement (.pixPalette d) := by
  revert d; unfold Statement; decide
theorem pixGreyscaleAlpha (d : Byte) : Statement (.pixGreyscaleAlpha d) := by
  revert d; unfold Statement; decide
theorem pixRgba (d : Byte) : Statement (.pixRgba d) := by
  revert d; unfold Statement; decide

end EncodingMatchesTable

end Sys2Proof.Laws
end

