-- ==== Sys2Proof/Laws/Registers.lean ====
section
/-! SUPPORT. The registers, said once: everything a read and everything a write of a register can do when it answers a
next state, and the induction principle over the steps that follows. -/

namespace Sys2Proof.Machine

/-- Everything a read of register `r` can do. -/
inductive ReadEffect (r : Reg) (s : State) : State → Prop
  | ret (v : Word) : ReadEffect r s (s.returnRead v)
  | err (code : Byte) (info : Word) (he : s.err = false) (h1 : 1 ≤ code.toNat) (h7 : code.toNat ≤ 7) :
    ReadEffect r s ((s.recorded code info).returnRead 0)
  | raw (v : Word) (h : r = .rawData) : ReadEffect r s ({ s with rawAddr := s.rawAddr + 1 }.returnRead v)
  | recon (v : Word) (h : r = .reconData): ReadEffect r s ({ s with reconAddr := s.reconAddr + 1 }.returnRead v)
  | pal (v : Word) (h : r = .palData): ReadEffect r s ({ s with palAddr := s.palAddr + 1 }.returnRead v)

/-- The inversion of readRegister. -/
theorem readRegister_next (r : Reg) (s t : State) (h : readRegister r s = .next t) : ReadEffect r s t := by
  cases r with
  | rawData =>
    change readRawData s = _ at h
    unfold readRawData at h
    split at h
    · cases h
      cases he : s.err with
      | true => rw [State.raiseError_of_error he]; exact .ret _
      | false => rw [State.raiseError_of_no_error he]; exact .err _ _ he (by decide) (by decide)
    · split at h
      · cases h
      · cases h; exact .raw _ rfl
  | reconData =>
    change readReconData s = _ at h
    unfold readReconData at h
    split at h
    · cases h
      cases he : s.err with
      | true => rw [State.raiseError_of_error he]; exact .ret _
      | false => rw [State.raiseError_of_no_error he]; exact .err _ _ he (by decide) (by decide)
    · cases h; exact .recon _ rfl
  | palData =>
    change readPalData s = _ at h
    unfold readPalData at h
    split at h
    · cases h
    · cases h; exact .pal _ rfl
  | _ => cases h; exact .ret _

/-- Everything a write of `w` to register `r` can do. -/
inductive WriteEffect (r : Reg) (w : Word) (s : State) : State → Prop
  | same : WriteEffect r w s s
  | cmd (i : Instr) (t : State) (hr : r = .cmd) (hd : decode (.command w) = .ok i) (h : ExecEffect i s t)
    (hx : exec i s = .next t) : WriteEffect r w s t
  | err (code : Byte) (info : Word) (he : s.err = false) (h1 : 1 ≤ code.toNat) (h7 : code.toNat ≤ 7) :
    WriteEffect r w s (s.recorded code info)
  | format (h : r = .format) v : WriteEffect r w s { s with format := v }
  | width (h : r = .width) v : WriteEffect r w s { s with width := v }
  | rawAddr (h : r = .rawAddr) v : WriteEffect r w s { s with rawAddr := v }
  | rawData (h : r = .rawData) b (hb : s.rawAddr.toNat ≤ s.cfg.rowBytesMax) :
    WriteEffect r w s { s.setRawByte s.rawAddr.toNat b with rawAddr := s.rawAddr + 1 }
  | reconAddr (h : r = .reconAddr) v : WriteEffect r w s { s with reconAddr := v }
  | palAddr (h : r = .palAddr) v : WriteEffect r w s { s with palAddr := v }
  | palData (h : r = .palData) e : WriteEffect r w s { s.setPalEntry s.palAddr.toNat e with palAddr := s.palAddr + 1 }
  | palSize (h : r = .palSize) v (hv : v.toNat ≤ 256) : WriteEffect r w s { s with palSize := v }
  | pixIndex (h : r = .pixIndex) v : WriteEffect r w s { s with pixIndex := v }

theorem clampPalSize_le (w : Word) : (clampPalSize w).toNat ≤ 256 := by
  simp only [clampPalSize, BitVec.toNat_ofNat]; omega

/-- The inversion of writeRegister. -/
theorem writeRegister_next (r : Reg) (w : Word) (s t : State) (h : writeRegister r w s = .next t) : WriteEffect r w s t := by
  cases r with
  | cmd =>
    change writeCmd w s = _ at h
    unfold writeCmd at h
    split at h
    · next i hi => exact .cmd i t rfl hi (exec_next i s h) h
    · cases h
      cases he : s.err with
      | true => rw [State.raiseError_of_error he]; exact .same
      | false => rw [State.raiseError_of_no_error he]; exact .err _ _ he (by decide) (by decide)
  | rawData =>
    change writeRawData w s = _ at h
    unfold writeRawData at h
    split at h
    · cases h
      cases he : s.err with
      | true => rw [State.raiseError_of_error he]; exact .same
      | false => rw [State.raiseError_of_no_error he]; exact .err _ _ he (by decide) (by decide)
    · cases h; exact .rawData rfl _ (by omega)
  | palData => cases h; exact .palData rfl _
  | format => cases h; exact .format rfl _
  | width => cases h; exact .width rfl _
  | rawAddr => cases h; exact .rawAddr rfl _
  | reconAddr => cases h; exact .reconAddr rfl _
  | palAddr => cases h; exact .palAddr rfl _
  | palSize => cases h; exact .palSize rfl _ (clampPalSize_le w)
  | pixIndex => cases h; exact .pixIndex rfl _
  | _ => cases h; exact .same

/-- What holds of every way a step answers a next state holds of every step that does. -/
theorem step_all {P : State → State → Prop}
  (hidle : ∀ s, P s s)
  (hreset : ∀ s rest, s.nextIsReset → P s {s.doReset with pending := rest})
  (hunseen : ∀ s a rest, s.pending = .access a :: rest → P s {s with pending := rest})
  (hread : ∀ s off rest t,
    s.pending = .access { master := .host, addr := s.cfg.base + off, bytes := 4, op := .read } :: rest →
    ReadEffect (Reg.ofOffset off) { s with pending := rest } t → P s t)
  (hwrite : ∀ s off w rest t,
    s.pending = .access { master := .host, addr := s.cfg.base + off, bytes := 4, op := .write w } :: rest →
    WriteEffect (Reg.ofOffset off) w { s with pending := rest } t → P s t)
  (s t : State) (h : step s = .next t) : P s t := by
  rcases step_next h with ⟨-, rfl⟩ | ⟨i, rest, hp, he⟩
  · exact hidle _
  · cases he with
    | powerOn => exact hreset s rest (.inl ⟨rest, hp⟩)
    | unseen a => exact hunseen s a rest hp
    | read t off h1 h2 h3 => exact hread s off rest t hp (readRegister_next _ _ _ h3)
    | write t off w h1 h2 h3 => exact hwrite s off w rest t hp (writeRegister_next _ _ _ _ h3)

end Sys2Proof.Machine
end

