-- ==== Sys2Proof/Tests/Slice0.lean ====
section
/-! SUPPORT. The model's own tests: the WellFormed smoke, the encodings written out bit by bit from 30_encoding.md, the
vectors of 95_test_vectors.md (each named by its number there), and for every statement with hypotheses a concrete
state and operands that meet them. -/

namespace Sys2Proof.Tests
open Sys2Proof.Machine

/-! ## Helpers -/

/-- The bytes of a list at the addresses from `k` on. -/
def bytesFrom : Nat → List Byte → Memory Byte
  | _, [] => []
  | k, b :: bs => (k, b) :: bytesFrom (k + 1) bs

/-- After reset (ROW_BYTES_MAX = 64, BASE = 0), with FORMAT and WIDTH written, a scanline in RAW and a row in RECON. -/
def rowState (format : FormatBits) (width : Word) (raw recon : List Byte) : State :=
  { State.reset with format := format, width := width, raw := bytesFrom 0 raw, recon := reconWriteRow [] 0 recon }

/-- `rowState` with nothing in RAW and PIX_INDEX = `n`. -/
def pixelState (format : FormatBits) (width : Word) (recon : List Byte) (n : Word) : State :=
  { rowState format width [] recon with pixIndex := n }

/-- `pixelState` with the palette of 95_test_vectors.md section 7 and PAL_SIZE = 4. -/
def paletteState (format : FormatBits) (width : Word) (recon : List Byte) (n : Word) : State :=
  { pixelState format width recon n with
    pal := [(0, ⟨0, 0, 0⟩), (1, ⟨255, 0, 0⟩), (2, ⟨0, 255, 0⟩), (3, ⟨0, 0, 255⟩)], palSize := 4 }

/-- The next state of an outcome. -/
def nextOf : Host.Outcome State Fault Refusal → Option State
  | .next t => some t
  | .fault _ => none
  | .refused _ => none

/-- The fault of an outcome. -/
def faultOf : Host.Outcome State Fault Refusal → Option Fault
  | .next _ => none
  | .fault f => some f
  | .refused _ => none

/-- The refusal of an outcome. -/
def refusalOf : Host.Outcome State Fault Refusal → Option Refusal
  | .next _ => none
  | .fault _ => none
  | .refused r => some r

/-- The first bytes of RECON after a step. -/
def reconAfter (n : Nat) (o : Host.Outcome State Fault Refusal) : Option (List Nat) :=
  (nextOf o).map fun t => (t.reconRow 0 n).map (·.toNat)

/-- PIX_VALID and the four PIX registers after a step. -/
def pixelAfter (o : Host.Outcome State Fault Refusal) : Option (Bool × List Nat) :=
  (nextOf o).map fun t => (t.pixValid, [t.pixR.toNat, t.pixG.toNat, t.pixB.toNat, t.pixA.toNat])

/-- ERR, ERR_CODE and ERR_INFO after a step. -/
def errorAfter (o : Host.Outcome State Fault Refusal) : Option (Bool × Nat × Nat) :=
  (nextOf o).map fun t => (t.err, t.errCode.toNat, t.errInfo.toNat)

/-- The values the block has returned to the host. -/
def readsAfter (o : Host.Outcome State Fault Refusal) : Option (List Nat) :=
  (nextOf o).map fun t => t.reads.map (·.toNat)

/-! ## Well-formedness and the encodings -/

theorem test_wellFormed_refuses : (Instr.pixGreyscale 3).wellFormed = false ∧ (Instr.pixGreyscale 0).wellFormed = false ∧
    (Instr.pixRgb 4).wellFormed = false ∧ (Instr.pixPalette 16).wellFormed = false ∧
    (Instr.pixPalette 7).wellFormed = false ∧ (Instr.pixGreyscaleAlpha 4).wellFormed = false ∧
    (Instr.pixRgba 2).wellFormed = false := by decide

theorem test_wellFormed_accepts : (Instr.pixGreyscale 16).wellFormed = true ∧ (Instr.pixPalette 8).wellFormed = true ∧
    Instr.nop.wellFormed = true ∧ Instr.filterPaeth.wellFormed = true := by decide

/-- R80: the five command words. -/
theorem test_command_words :
    decodeTableWord 32 0b00000000000000000000000000000000 = some .nop ∧
    decodeTableWord 32 0b00000000000000000000000000000001 = some .clearPrev ∧
    decodeTableWord 32 0b00000000000000000000000000000010 = some .defilter ∧
    decodeTableWord 32 0b00000000000000000000000000000011 = some .extract ∧
    decodeTableWord 32 0b00000000000000000000000000000100 = some .reset := by decide

/-- R82: the five filter bytes. -/
theorem test_filter_bytes :
    decodeTableWord 8 0b00000000 = some .filterNone ∧ decodeTableWord 8 0b00000001 = some .filterSub ∧
    decodeTableWord 8 0b00000010 = some .filterUp ∧ decodeTableWord 8 0b00000011 = some .filterAverage ∧
    decodeTableWord 8 0b00000100 = some .filterPaeth := by decide

/-- R83: COLOR_TYPE in bits 15:8, BIT_DEPTH in bits 7:0. -/
theorem test_format_fields :
    decodeTableWord 16 0b0000000000000010 = some (.pixGreyscale 2) ∧
    decodeTableWord 16 0b0000001000010000 = some (.pixRgb 16) ∧
    decodeTableWord 16 0b0000001100000001 = some (.pixPalette 1) ∧
    decodeTableWord 16 0b0000010000001000 = some (.pixGreyscaleAlpha 8) ∧
    decodeTableWord 16 0b0000011000010000 = some (.pixRgba 16) := by decide

/-- R81, R82, R83: words that name nothing. -/
theorem test_rejected_words : decode (.command 5) = .error (.badCommand 5) ∧
    decode (.command 0x80000002) = .error (.badCommand 0x80000002) ∧
    decode (.filter 5) = .error (.invalidFilter 5) ∧ decode (.format 0x0508) = .error (.invalidColorType 5) ∧
    decode (.format 0x0708) = .error (.invalidColorType 7) ∧ decodeTableWord 24 0 = none ∧
    decodeTableWord 8 0x100 = none := by decide

/-- A placed word runs in the next step: FILTER_SUB on the row `0`, PIX_RGBA 16 on an all-zero RECON, RESET. -/
theorem test_placed_words : reconAfter 1 (step (State.reset.withFetchWord 8 1)) = some [0] ∧
    pixelAfter (step (State.reset.withFetchWord 16 0x0600)) = some (false, [0, 0, 0, 0]) ∧
    pixelAfter (step (State.reset.withFetchWord 16 0x0610)) = some (true, [0, 0, 0, 0]) ∧
    nextOf (step (State.reset.withFetchWord 32 4)) = some State.reset := by decide

/-! ## Commands (95_test_vectors.md sections 3 and 8) -/

theorem test_C2_nop : nextOf (step ((State.reset.recorded 1 5).thenWrite 0x00 0)) = some (State.reset.recorded 1 5) := by
  decide

theorem test_C3_clearPrev : reconAfter 3 (step ((rowState 0x0008 3 [0, 1] [7, 8, 9]).thenWrite 0x00 1)) = some [0, 0, 0] := by
  decide

theorem test_C4_clearPrev_ignored :
    reconAfter 1 (step (((rowState 0x0008 3 [] [7]).recorded 1 5).thenWrite 0x00 1)) = some [7] := by decide

theorem test_C5_reset :
    nextOf (step (((paletteState 0x0302 4 [1] 9).recorded 4 3).thenWrite 0x00 4)) = some State.reset := by decide

theorem test_C7_badCommand : errorAfter (step (State.reset.thenWrite 0x00 0x105)) = some (true, 7, 0x105) := by decide

theorem test_C9_first_error_wins :
    errorAfter (step ((State.reset.recorded 1 5).thenWrite 0x00 0x99)) = some (true, 1, 5) := by decide

theorem test_E2_invalidFilter : errorAfter (exec .defilter (rowState 0x0008 3 [255, 1, 2, 3] [])) = some (true, 1, 255) := by
  decide

theorem test_E3_E4_invalidFormat :
    errorAfter (exec .defilter (rowState 0x0003 3 [5, 1, 2, 3] [])) = some (true, 2, 3) ∧
    errorAfter (exec .extract (rowState 0x0108 3 [] [])) = some (true, 2, 0x0108) := by decide

theorem test_E6_E8_rowLength :
    errorAfter (exec .defilter (rowState 0x0008 65 [5] [])) = some (true, 3, 65) ∧
    errorAfter (exec .defilter (rowState 0x0610 0xFFFFFFFF [] [])) = some (true, 3, 0xFFFFFFFF) := by decide

theorem test_E9_E10_extract : errorAfter (exec .extract (rowState 0x0008 65 [] [])) = some (true, 3, 65) ∧
    errorAfter (exec .extract (rowState 0x0008 0 [] [])) = some (false, 0, 0) := by decide

/-! ## The filters (95_test_vectors.md section 4) -/

theorem test_F1_F16_none :
    reconAfter 4 (exec .defilter (rowState 0x0008 4 [0, 1, 2, 3, 4] [9, 9, 9, 9])) = some [1, 2, 3, 4] ∧
    reconAfter 5 (exec .filterNone (rowState 0x0008 2 [0, 9, 9] [1, 2, 3, 4, 5])) = some [9, 9, 3, 4, 5] := by decide

theorem test_F2_F6_sub :
    reconAfter 4 (exec .defilter (rowState 0x0008 4 [1, 10, 20, 250, 10] [])) = some [10, 30, 24, 34] ∧
    reconAfter 6 (exec .filterSub (rowState 0x0208 2 [1, 1, 2, 3, 4, 5, 6] [])) = some [1, 2, 3, 5, 7, 9] := by decide

theorem test_F13_F15_sub :
    reconAfter 4 (exec .filterSub (rowState 0x0010 2 [1, 0x12, 0x34, 1, 1] [])) = some [18, 52, 19, 53] ∧
    reconAfter 8 (exec .filterSub (rowState 0x0610 1 [1, 1, 2, 3, 4, 5, 6, 7, 8] [])) =
      some [1, 2, 3, 4, 5, 6, 7, 8] := by decide

theorem test_F3_up :
    reconAfter 4 (exec .defilter (rowState 0x0008 4 [2, 1, 2, 3, 255] [10, 20, 30, 1])) = some [11, 22, 33, 0] := by
  decide

theorem test_F4_F10_average :
    reconAfter 4 (exec .defilter (rowState 0x0008 4 [3, 100, 100, 0, 0] [200, 200, 255, 255])) =
      some [200, 44, 149, 202] ∧
    reconAfter 6 (exec .filterAverage (rowState 0x0208 2 [3, 10, 20, 30, 40, 50, 60] [100, 110, 120, 130, 140, 150])) =
      some [60, 75, 90, 135, 157, 180] := by decide

theorem test_F14_average : reconAfter 8 (exec .filterAverage
    (rowState 0x0410 2 [3, 0, 0, 0, 0, 0, 0, 0, 0] [200, 0, 255, 255, 250, 1, 255, 3])) =
      some [100, 0, 127, 127, 175, 0, 191, 65] := by decide

theorem test_F5_F12_paeth :
    reconAfter 4 (exec .defilter (rowState 0x0008 4 [4, 5, 5, 5, 5] [10, 20, 30, 40])) = some [15, 25, 35, 45] ∧
    reconAfter 2 (exec .filterPaeth (rowState 0x0008 2 [4, 0, 0] [250, 200])) = some [250, 200] := by decide

theorem test_F11_paeth :
    reconAfter 6 (exec .filterPaeth (rowState 0x0208 2 [4, 1, 2, 3, 4, 5, 6] [100, 110, 120, 130, 140, 150])) =
      some [101, 112, 123, 134, 145, 156] := by decide

theorem test_PA_predictor : paeth 10 10 0 = 10 ∧ paeth 0 10 10 = 0 ∧ paeth 0 30 10 = 30 ∧ paeth 20 0 10 = 10 ∧
    paeth 0 0 255 = 0 ∧ paeth 255 255 0 = 255 ∧ paeth 10 200 250 = 10 ∧ paeth 255 0 255 = 0 ∧ paeth 1 2 3 = 1 ∧
    paeth 200 60 130 = 130 ∧ paeth 50 255 0 = 255 := by decide

theorem test_R13_raw_unwritten :
    faultOf (exec .defilter (rowState 0x0008 3 [] [])) = some (.rawUnwritten 0) ∧
    faultOf (exec .defilter (rowState 0x0008 3 [0, 1, 2] [])) = some (.rawUnwritten 3) := by decide

/-! ## The pixel variants (95_test_vectors.md sections 6 and 7) -/

theorem test_X1_X2_greyscale :
    pixelAfter (exec .extract (pixelState 0x0001 7 [0xB2] 6)) = some (true, [1, 1, 1, 1]) ∧
    pixelAfter (exec (.pixGreyscale 1) (pixelState 0x0001 7 [0xB2] 7)) = some (true, [0, 0, 0, 1]) ∧
    pixelAfter (exec (.pixGreyscale 1) (pixelState 0x0001 7 [0xB2] 8)) = some (false, [0, 0, 0, 0]) ∧
    pixelAfter (exec (.pixGreyscale 2) (pixelState 0x0002 3 [0xB2] 3)) = some (true, [2, 2, 2, 3]) := by decide

theorem test_X3_X5_greyscale :
    pixelAfter (exec (.pixGreyscale 4) (pixelState 0x0004 2 [0xB2] 0)) = some (true, [11, 11, 11, 15]) ∧
    pixelAfter (exec .extract (pixelState 0x0008 2 [0x7F, 0x80] 1)) = some (true, [128, 128, 128, 255]) ∧
    pixelAfter (exec .extract (pixelState 0x0010 2 [0x12, 0x34, 0xFF, 0] 0)) =
      some (true, [4660, 4660, 4660, 65535]) := by decide

theorem test_X6_X7_greyscaleAlpha :
    pixelAfter (exec .extract (pixelState 0x0408 2 [0x11, 0x22, 0x33, 0x44] 1)) = some (true, [51, 51, 51, 68]) ∧
    pixelAfter (exec (.pixGreyscaleAlpha 16) (pixelState 0x0410 1 [0xAB, 0xCD, 1, 2] 0)) =
      some (true, [43981, 43981, 43981, 258]) := by decide

theorem test_X8_X9_rgb :
    pixelAfter (exec .extract (pixelState 0x0208 2 [1, 2, 3, 4, 5, 6] 1)) = some (true, [4, 5, 6, 255]) ∧
    pixelAfter (exec (.pixRgb 16) (pixelState 0x0210 1 [1, 2, 3, 4, 5, 6] 0)) =
      some (true, [258, 772, 1286, 65535]) := by decide

theorem test_X10_X11_rgba :
    pixelAfter (exec .extract (pixelState 0x0608 1 [9, 8, 7, 6] 0)) = some (true, [9, 8, 7, 6]) ∧
    pixelAfter (exec (.pixRgba 16) (pixelState 0x0610 1 [0, 1, 0, 2, 0, 3, 0xFF, 0xFE] 0)) =
      some (true, [1, 2, 3, 65534]) := by decide

theorem test_X13_no_wrap :
    pixelAfter (exec .extract (pixelState 0x0008 3 [1, 2, 3] 0xFFFFFFFF)) = some (false, [0, 0, 0, 0]) := by decide

theorem test_PL1_palette :
    pixelAfter (exec .extract (paletteState 0x0304 3 [0x3A, 0x10] 0)) = some (true, [0, 0, 255, 255]) ∧
    errorAfter (exec .extract (paletteState 0x0304 3 [0x3A, 0x10] 1)) = some (true, 4, 10) ∧
    pixelAfter (exec (.pixPalette 4) (paletteState 0x0304 3 [0x3A, 0x10] 2)) = some (true, [255, 0, 0, 255]) := by decide

theorem test_PL5_PL6_palette :
    errorAfter (exec .extract { paletteState 0x0308 1 [0] 0 with palSize := 0 }) = some (true, 4, 0) ∧
    faultOf (exec .extract { paletteState 0x0308 1 [2] 0 with pal := [(1, ⟨1, 2, 3⟩)] }) =
      some (.palUnwritten 2) := by decide

/-! ## Registers and ports (95_test_vectors.md sections 2, 8 and 9) -/

theorem test_format_table :
    bppRegister 0x0001 = 0x101 ∧ bppRegister 0x0010 = 0x1002 ∧ bppRegister 0x0210 = 0x3006 ∧
    bppRegister 0x0304 = 0x401 ∧ bppRegister 0x0410 = 0x2004 ∧ bppRegister 0x0610 = 0x4008 ∧ bppRegister 0x0307 = 0 ∧
    rowLenRegister 0x0001 0xFFFFFFFF = 0x20000000 ∧ rowLenRegister 0x0010 0xFFFFFFFF = 0xFFFFFFFF ∧
    rowLenRegister 0x0304 5 = 3 ∧ rowLenRegister 0x0610 5 = 40 ∧ rowLenRegister 0x0404 5 = 0 := by decide

theorem test_E11_E12_rawWrite :
    ((nextOf (step ({ State.reset with rawAddr := 64 }.thenWrite 0x20 7))).map fun t => (t.raw, t.rawAddr.toNat)) =
      some ([(64, 7)], 65) ∧
    errorAfter (step ({ State.reset with rawAddr := 65 }.thenWrite 0x20 7)) = some (true, 5, 65) := by decide

theorem test_E13_rawRead : readsAfter (step ({ State.reset with rawAddr := 65 }.thenRead 0x20)) = some [0] ∧
    errorAfter (step ({ State.reset with rawAddr := 65 }.thenRead 0x20)) = some (true, 5, 65) := by decide

theorem test_E14_E15_reconRead : readsAfter (step ({ State.reset with reconAddr := 63 }.thenRead 0x28)) = some [0] ∧
    errorAfter (step ({ State.reset with reconAddr := 64 }.thenRead 0x28)) = some (true, 6, 64) := by decide

theorem test_E16_reconWrite : nextOf (step ({ State.reset with reconAddr := 64 }.thenWrite 0x28 1)) =
    some { State.reset with reconAddr := 64 } := by decide

theorem test_G3_palWrite :
    ((nextOf (step ({ State.reset with palAddr := 255 }.thenWrite 0x30 0x00332211))).map fun t =>
      (t.pal, t.palAddr.toNat)) = some ([(255, ⟨0x11, 0x22, 0x33⟩)], 0) := by decide

theorem test_G4_palRead : readsAfter (step
    ({ State.reset with palAddr := 255, pal := [(255, ⟨0x11, 0x22, 0x33⟩)] }.thenRead 0x30)) = some [0x332211] := by decide

theorem test_G6_palSize : (clampPalSize 3).toNat = 3 ∧ (clampPalSize 0x100).toNat = 256 ∧
    (clampPalSize 0x1FF).toNat = 256 ∧ (clampPalSize 0x200).toNat = 0 ∧ (clampPalSize 0x103).toNat = 256 := by decide

theorem test_G7_rawWrite : ((nextOf (step (State.reset.thenWrite 0x20 0x123456AB))).map (·.raw)) = some [(0, 0xAB)] := by
  decide

/-- G8, G9: STATUS and PIX_R ignore writes. Program P2: with an error and a valid pixel STATUS reads 0x403. -/
theorem test_G8_status : nextOf (step (State.reset.thenWrite 0x04 0xFFFFFFFF)) = some State.reset ∧
    nextOf (step (State.reset.thenWrite 0x3C 5)) = some State.reset ∧
    readsAfter (step ({ State.reset.recorded 4 3 with pixValid := true }.thenRead 0x04)) = some [0x403] := by decide

/-- G13: an access at offset 2 and one of 16 bits are refused. -/
theorem test_G13_refused : refusalOf (step (State.reset.thenRead 0x02)) = some .unsupportedAccess ∧
    refusalOf (step { State.reset with pending := [.access ⟨.host, 4, 2, .read⟩] }) = some .unsupportedAccess := by decide

/-- R92: `row` expands to the RAW_ADDR write, one RAW_DATA write per byte, and the DEFILTER. -/
theorem test_row_expands : Pseudo.expand (.row [1, 10]) =
    [.wr .rawAddr 0, .wr .rawData 1, .wr .rawData 10, .cmd 2] := by decide

/-! ## The hypotheses of the statements can be met

Each theorem names the statement it is for, and its clauses at the boundary of their ranges. -/

/-- RowReady from facts that `decide` answers. -/
theorem rowReady_of {s : State} {m : ColorModel} {d : Nat}
    (h : s.err = false ∧ legalFormat s.format = some (m, d) ∧ 1 ≤ rowLength m d s.width ∧
      rowLength m d s.width ≤ s.cfg.rowBytesMax)
    (hw : ∀ k, k < rowLength m d s.width + 1 → 1 ≤ k → s.rawByte k ≠ none) : s.RowReady m d :=
  ⟨h.1, h.2.1, h.2.2.1, h.2.2.2, fun k h1 h2 => hw k (by omega) h1⟩

/-- PixelReady from facts that `decide` answers. -/
theorem pixelReady_of {s : State} {m : ColorModel} {depth : Byte}
    (h : s.err = false ∧ depth.toNat ∈ m.legalDepths ∧ rowLength m depth.toNat s.width ≤ s.cfg.rowBytesMax ∧
      (s.pixIndex.toNat + 1) * bitsPerPixel m depth.toNat ≤ 8 * rowLength m depth.toNat s.width) :
    s.PixelReady m depth :=
  ⟨h.1, h.2.1, h.2.2.1, h.2.2.2⟩

/-- A greyscale row of one 8-bit pixel with filter byte `ft`: L = 1, the shortest row. -/
def shortRow (ft : Byte) : State := rowState 0x0008 1 [ft, 7] [3]

/-- An RGB row of two 8-bit pixels with filter byte `ft`: L = 6, bpp = 3. -/
def rgbRow (ft : Byte) : State := rowState 0x0208 2 [ft, 1, 2, 3, 4, 5, 6] [100, 110, 120, 130, 140, 150]

/-- CommandWordsMatchAllBits: the words from 5 on. -/
theorem witness_bad_words : 5 ≤ (5 : Word).toNat ∧ 5 ≤ (0x80000002 : Word).toNat := by decide

/-- DecodeEncodeRoundTrip and DecodedWordsAreCanonical: a well-formed instruction with an operand, and a word with an
operand that decodes. -/
theorem witness_round_trip : (Instr.pixPalette 8).wellFormed = true ∧ (Instr.pixGreyscale 16).wellFormed = true ∧
    decode (.format 0x06FF) = .ok (.pixRgba 255) := by decide

/-- LegalityTable, DefilterCommand and ExtractCommand: an illegal format without an error. -/
theorem witness_illegal_format : (rowState 0x0310 3 [0, 1] []).err = false ∧
    legalFormat (rowState 0x0310 3 [0, 1] []).format = none := by decide

/-- RowLengthIsExactCeiling, PaddingIndicesAreInRow and OutsideRowIsNoPixel: both ends of the format table, and the
widest row that no index reaches past. -/
theorem witness_formats : legalFormat 0x0001 = some (.greyscale, 1) ∧ legalFormat 0x0610 = some (.rgba, 16) ∧
    2 < (3 : Word).toNat ∧ rowLength .greyscale 1 0xFFFFFFF8 < 2 ^ 29 * bitsPerPixel .greyscale 1 := by decide

/-- StepRunsDecodedCommand, DefilterRunsDecodedFilter and LoadedWordRunsNext. -/
theorem witness_decoded : decode (.command 2) = .ok .defilter ∧ (rgbRow 4).rawByte 0 = some 4 ∧
    decode (.filter 4) = .ok .filterPaeth ∧ decodeTableWord 16 0x0610 = some (.pixRgba 16) := by decide

/-- ExtractPicksVariantFromColorType: a format of each colour type. -/
theorem witness_variants : ∀ ct ∈ [(0 : Byte), 4, 2, 6, 3],
    (rowState (ct ++ (8 : Byte)) 1 [] []).format = ct ++ (8 : Byte) := by decide

/-- IdleKeepsStateAndPowerOnResets and PowerOnStateIsResetState. -/
theorem witness_idle : State.reset.pending = [] ∧ (shortRow 0).cfg = State.reset.cfg ∧ (shortRow 0).pending = [] ∧
    (shortRow 0).reads = [] := by decide

/-- ClearPrevZeroesRecon, RaiseRecordsFirstErrorOnly and CmdWriteDispatch: with and without a recorded error. -/
theorem witness_error_flag : (shortRow 0).err = false ∧ ((shortRow 0).recorded 1 5).err = true ∧
    (0xFFFFFFFF : Word) ≠ 0x00000004 := by decide

/-- The five filter statements, FirstRowReducesFilters (RECON is zero after reset) and DefilterCommand: the shortest
row. -/
theorem witness_shortest_row : (rowState 0x0008 1 [0, 7] []).RowReady .greyscale 8 ∧
    ∀ k, (rowState 0x0008 1 [0, 7] []).reconByte k = 0 :=
  ⟨rowReady_of (by decide) (by decide), fun _ => rfl⟩

/-- FilterNoneCopiesRow to FilterPaethAddsPrediction: a row with bytes before and after the first stride. -/
theorem witness_filter_row : (rgbRow 4).RowReady .rgb 8 ∧ rowLength .rgb 8 (rgbRow 4).width = 6 ∧
    bytesPerPixel .rgb 8 = 3 ∧ (rgbRow 4).rawByte (1 + 2) = some 3 ∧ (rgbRow 4).rawByte (1 + 3) = some 4 ∧
    (rgbRow 4).rawByte (1 + 5) = some 6 :=
  ⟨rowReady_of (by decide) (by decide), by decide, by decide, by decide, by decide, by decide⟩

/-- The longest row: L = ROW_BYTES_MAX (E7). -/
theorem witness_longest_row : (rowState 0x0008 64 (List.replicate 65 0) []).RowReady .greyscale 8 ∧
    rowLength .greyscale 8 64 = 64 :=
  ⟨rowReady_of (by decide) (by decide), by decide⟩

/-- ShortRowReducesFilters: a row as long as its stride. -/
theorem witness_stride_row : (rowState 0x0610 1 [1, 1, 2, 3, 4, 5, 6, 7, 8] []).RowReady .rgba 16 ∧
    rowLength .rgba 16 1 = 8 ∧ bytesPerPixel .rgba 16 = 8 :=
  ⟨rowReady_of (by decide) (by decide), by decide, by decide⟩

/-- PaethPicksNearest: PA1 picks left, PA3 above, PA4 upper_left. -/
theorem witness_paeth : ((10 : Int) ≤ 10 ∧ (10 : Int) ≤ 20) ∧ (¬((20 : Int) ≤ 10 ∧ (20 : Int) ≤ 10) ∧ (10 : Int) ≤ 10) ∧
    (¬((10 : Int) ≤ 10 ∧ (10 : Int) ≤ 0) ∧ ¬(10 : Int) ≤ 0) := by decide

/-- DefilterRowRecurrence and DefilterInvertsForwardFilter. -/
theorem witness_rows : (8 : Nat) ∈ [1, 2, 3, 4, 6, 8] ∧ [(5 : Byte), 6].length = [(7 : Byte), 9].length := by decide

/-- DefilterStepRestoresRow: a forward-filtered Paeth row in RAW. -/
theorem witness_restores_row :
    let s := rowState 0x0008 3 [4, 10, 246, 5] [50, 60, 70]
    let orig : List Byte := [60, 50, 65]
    s.RowReady .greyscale 8 ∧ s.rawByte 0 = some (FilterType.toByte .paeth) ∧
      orig.length = rowLength .greyscale 8 s.width ∧ ∀ i, i < orig.length →
        s.rawByte (1 + i) =
          some (filterByte .paeth (bytesPerPixel .greyscale 8) (s.reconRow 0 (rowLength .greyscale 8 s.width)) orig i) :=
  ⟨rowReady_of (by decide) (by decide), by decide, by decide, by decide⟩

/-- DefilterCommand and FiltersTrapAsDefilter, the length clauses: L = 0 and L = ROW_BYTES_MAX + 1. -/
theorem witness_bad_length : legalFormat 0x0008 = some (.greyscale, 8) ∧ rowLength .greyscale 8 0 = 0 ∧
    rowLength .greyscale 8 65 = 65 ∧ (rowState 0x0008 65 [] []).cfg.rowBytesMax = 64 := by decide

/-- DefilterCommand and FiltersTrapAsDefilter, the RAW clauses: byte 0 unwritten, a filter byte 5, and the last data
byte the first unwritten one. -/
theorem witness_raw_clauses : (rowState 0x0008 1 [] []).rawByte 0 = none ∧ (shortRow 5).rawByte 0 = some 5 ∧
    (rowState 0x0008 2 [4, 1] []).rawByte 0 = some 4 ∧ (rowState 0x0008 2 [4, 1] []).rawByte 2 = none ∧
    (∀ j, j < 2 → 1 ≤ j → (rowState 0x0008 2 [4, 1] []).rawByte j ≠ none) := by decide

/-- DefilterCommand, the last clause. -/
theorem witness_defilter : (rgbRow 2).RowReady .rgb 8 ∧ (rgbRow 2).rawByte 0 = some (FilterType.toByte .up) ∧
    ([1, 2, 3, 4, 5, 6] : List Byte).length = rowLength .rgb 8 (rgbRow 2).width ∧
    ∀ i, i < 6 → (rgbRow 2).rawByte (1 + i) = some (([1, 2, 3, 4, 5, 6] : List Byte).getD i 0) :=
  ⟨rowReady_of (by decide) (by decide), by decide, by decide, by decide⟩

/-- GreyscalePixel: the last index in the row is a padding sample (X1). -/
theorem witness_greyscale : (pixelState 0x0001 7 [0xB2] 7).PixelReady .greyscale 1 ∧
    (pixelState 0x0010 2 [1, 2, 3, 4] 0).PixelReady .greyscale 16 :=
  ⟨pixelReady_of (by decide), pixelReady_of (by decide)⟩

/-- GreyscaleAlphaPixel, RgbPixel and RgbaPixel: the last pixel of the row. -/
theorem witness_direct_models : (pixelState 0x0408 2 [1, 2, 3, 4] 1).PixelReady .greyscaleAlpha 8 ∧
    (pixelState 0x0210 1 [1, 2, 3, 4, 5, 6] 0).PixelReady .rgb 16 ∧
    (pixelState 0x0610 8 [] 7).PixelReady .rgba 16 :=
  ⟨pixelReady_of (by decide), pixelReady_of (by decide), pixelReady_of (by decide)⟩

/-- PalettePixel and ExtractCommand: an index at PAL_SIZE, the last index below it, and one whose entry is not
written. -/
theorem witness_palette : (paletteState 0x0304 2 [0x34] 0).PixelReady .palette 4 ∧
    sample (paletteState 0x0304 2 [0x34] 1) .palette 4 1 0 = 4 ∧
    (paletteState 0x0304 2 [0x34] 1).palSize.toNat = 4 ∧
    sample (paletteState 0x0304 2 [0x34] 0) .palette 4 0 0 = 3 ∧
    (paletteState 0x0304 2 [0x34] 0).palEntry 3 = some ⟨0, 0, 255⟩ ∧
    ({ paletteState 0x0304 2 [0x34] 0 with pal := [] }).palEntry 3 = none :=
  ⟨pixelReady_of (by decide), by decide, by decide, by decide, by decide, by decide⟩

/-- OutsideRowIsNoPixel, ExtractCommand and VariantsTrapAsExtract: the first index past the row. -/
theorem witness_outside_row : 8 * rowLength .greyscale 1 7 < (8 + 1) * bitsPerPixel .greyscale 1 ∧
    8 * rowLength .rgb 8 2 < (2 + 1) * bitsPerPixel .rgb 8 ∧ rowLength .rgb 8 2 ≤ State.reset.cfg.rowBytesMax := by decide

/-- VariantsTrapAsExtract: a depth that is not legal, and a row one byte too long. -/
theorem witness_variant_traps : (4 : Byte).toNat ∉ ColorModel.legalDepths .rgb ∧
    (16 : Byte).toNat ∈ ColorModel.legalDepths .rgb ∧ State.reset.cfg.rowBytesMax < rowLength .palette 8 65 := by decide

/-- ExtractIsIdempotent, InstructionFrame and StepKeepsInvariant run through completed instructions. -/
theorem witness_completes : (nextOf (exec .extract (pixelState 0x0608 1 [9, 8, 7, 6] 0))).isSome = true ∧
    Instr.extract ≠ .reset ∧ (nextOf (exec .defilter (rgbRow 3))).isSome = true ∧
    (nextOf (exec .clearPrev (rgbRow 3))).isSome = true ∧ (nextOf (exec .nop (rgbRow 3))).isSome = true ∧
    (nextOf (exec .defilter (rowState 0x0310 3 [0, 1] [5]))).isSome = true := by decide

/-- OnlyResetLeavesErrorState and NothingNewIsComputedWhileError: from an error, a step that is no reset and the two
that are. -/
theorem witness_in_error : ((shortRow 2).recorded 1 5).err = true ∧
    nextOf (step (((shortRow 2).recorded 1 5).thenWrite 0x00 2)) = some ((shortRow 2).recorded 1 5) ∧
    (nextOf (step (((shortRow 2).recorded 1 5).thenWrite 0x00 4))).isSome = true ∧
    (nextOf (step { (shortRow 2).recorded 1 5 with pending := [.powerOn] })).isSome = true := by decide

theorem witness_is_reset : (((shortRow 2).recorded 1 5).thenWrite 0x00 4).nextIsReset ∧
    { (shortRow 2).recorded 1 5 with pending := [.powerOn] }.nextIsReset :=
  ⟨.inr ⟨4, [], rfl, rfl⟩, .inl ⟨[], rfl⟩⟩

theorem witness_is_no_reset : ¬(((shortRow 2).recorded 1 5).thenWrite 0x00 2).nextIsReset := by
  rintro (⟨rest, h⟩ | ⟨w, rest, rfl, h⟩) <;> simp [State.thenWrite] at h

/-- ErrorsArePrecise: a step that records an error. -/
theorem witness_records_error : (State.reset.thenRead 0x20).err = false ∧
    errorAfter (step ({ State.reset with rawAddr := 65 }.thenRead 0x20)) = some (true, 5, 65) := by decide

/-- RowLenAndBppReads: a legal and an illegal format. -/
theorem witness_format_reads : legalFormat (rgbRow 0).format = some (.rgb, 8) ∧
    legalFormat State.reset.format = none := by decide

/-- ReadOnlyAndReservedOffsets: the first and the last reserved offset. -/
theorem witness_reserved : 0x4C ≤ 0x4C ∧ 0x4C % 4 = 0 ∧ 0x7C ≤ 0x7C ∧ 0x7C % 4 = 0 := by decide

/-- RawDataPort and ReconDataPort: the first address past each buffer and the last one inside, written or not. -/
theorem witness_ports : ({ State.reset with rawAddr := 65 }).cfg.rowBytesMax < (65 : Word).toNat ∧
    ({ State.reset with rawAddr := 64 }).rawByte 64 = none ∧
    ({ State.reset with rawAddr := 64, raw := [(64, 7)] }).rawByte 64 = some 7 ∧
    State.reset.cfg.rowBytesMax ≤ (64 : Word).toNat ∧ (63 : Word).toNat < State.reset.cfg.rowBytesMax ∧
    (({ State.reset with rawAddr := 65 }).recorded 1 5).err = true := by decide

/-- PalDataPort: the last entry, written or not. -/
theorem witness_palette_port : State.reset.palEntry 255 = none ∧
    ({ State.reset with palAddr := 255, pal := [(255, ⟨1, 2, 3⟩)] }).palEntry 255 = some ⟨1, 2, 3⟩ := by decide

/-- AccessesTaken: the last access before the window at 0x80 and one that ends in it, an unaligned one, one of two
bytes, and one of a second master. -/
theorem witness_accesses : let s := { State.reset with cfg := { State.reset.cfg with base := 0x80 } }
    nextOf (step { s with pending := [.access ⟨.host, 0x7C, 4, .read⟩] }) = some s ∧
    refusalOf (step { s with pending := [.access ⟨.host, 0x7D, 4, .read⟩] }) = some .unsupportedAccess ∧
    refusalOf (step { s with pending := [.access ⟨.host, 0x82, 4, .read⟩] }) = some .unsupportedAccess ∧
    refusalOf (step { s with pending := [.access ⟨.host, 0xFC, 2, .read⟩] }) = some .unsupportedAccess ∧
    refusalOf (step { s with pending := [.access ⟨.second, 0xFF, 4, .read⟩] }) = some .secondMaster ∧
    nextOf (step { s with pending := [.access ⟨.second, 0x100, 4, .read⟩] }) = some s := by decide

/-- The "written only by" statements: a step that does write each of RECON, the pixel registers, RAW, PAL and a host
register. -/
theorem witness_writers : reconAfter 1 (step ((shortRow 2).thenWrite 0x00 2)) = some [10] ∧
    pixelAfter (step ((pixelState 0x0608 1 [9, 8, 7, 6] 0).thenWrite 0x00 3)) = some (true, [9, 8, 7, 6]) ∧
    ((nextOf (step (State.reset.thenWrite 0x20 7))).map (·.raw)) = some [(0, 7)] ∧
    ((nextOf (step (State.reset.thenWrite 0x30 7))).map (·.pal)) = some [(0, ⟨7, 0, 0⟩)] ∧
    ((nextOf (step (State.reset.thenWrite 0x0C 7))).map (·.format.toNat)) = some 7 := by decide

/-- StepKeepsInvariant: a state with an error, a pixel and all three buffers in use meets the invariant. -/
theorem witness_invariant : ({ (paletteState 0x0304 3 [0x3A, 0x10] 1).recorded 4 10 with
    raw := [(64, 7)], pixValid := true, pixA := 255 }).Inv :=
  ⟨by decide, by decide, by decide, by decide, by decide, by decide, by decide, by decide, by decide, by decide,
    by decide⟩

end Sys2Proof.Tests
end

section
/-! The row geometry of a legal format (00_scope.md R11): the ranges of bits_pp, bpp and L, and L as an exact ceiling. -/

namespace Sys2Proof.Machine

/-- The strides a filter can meet (00_scope.md R11): a sub-byte depth is widened to a stride of one byte. -/
theorem bytesPerPixel_mem {m : ColorModel} {d : Nat} (h : d ∈ m.legalDepths) :
    bytesPerPixel m d ∈ [1, 2, 3, 4, 6, 8] := by
  obtain (rfl | rfl) | ⟨rfl | rfl | rfl, rfl | rfl⟩ := ColorModel.legalDepths_cases h
  case inl.inl | inl.inr => cases m <;> decide
  all_goals decide

/-- L bytes hold every bit of the row (00_scope.md R8). -/
theorem bits_le_rowLength (m : ColorModel) (d : Nat) (width : Word) :
    width.toNat * bitsPerPixel m d ≤ 8 * rowLength m d width := by
  unfold rowLength; omega

/-- Fewer than L bytes do not: less than a byte of the row is padding (00_scope.md R8). -/
theorem rowLength_lt_bits_add (m : ColorModel) (d : Nat) (width : Word) :
    8 * rowLength m d width < width.toNat * bitsPerPixel m d + 8 := by
  unfold rowLength; omega

/-- L is bounded by the widest row, `2 ^ 32 - 1` pixels of 64 bits (00_scope.md R8, R11). -/
theorem rowLength_le {m : ColorModel} {d : Nat} (h : d ∈ m.legalDepths) (width : Word) :
    rowLength m d width ≤ 2 ^ 35 := by
  have hbits : width.toNat * bitsPerPixel m d ≤ (2 ^ 32 - 1) * 64 :=
    Nat.mul_le_mul (by have := width.isLt; omega) (bitsPerPixel_bounds h).2
  have hceil := rowLength_lt_bits_add m d width
  omega

/-- Settles O6: the ranges come from the table of legal depths, the two bounds on `8 * L` from the rounding up. -/
theorem rowLengthIsExactCeiling : Obligations.RowLengthIsExactCeiling := by
  intro f m d width hf
  have hd := legalDepths_of_legalFormat hf
  obtain ⟨hmin, hmax⟩ := bitsPerPixel_bounds hd
  exact ⟨hmin, hmax, bytesPerPixel_mem hd, bits_le_rowLength m d width, rowLength_lt_bits_add m d width,
    rowLength_le hd width⟩

end Sys2Proof.Machine
end

section
/-! The invariant of the block (Safety.lean), operation by operation and then over a step. -/

namespace Sys2Proof.Machine

variable {s t : State}

/-! ## Each operation on the state keeps the invariant -/

/-- An error of a code of R180 is one the invariant allows (60_exceptions.md R180). -/
theorem State.Inv.recorded (h : s.Inv) {code : Byte} (info : Word) (h1 : 1 ≤ code.toNat) (h7 : code.toNat ≤ 7) :
    (s.recorded code info).Inv :=
  { h with no_error := by simp, error_code := fun _ => ⟨h1, h7⟩ }

theorem State.Inv.doReset (h : s.Inv) : s.doReset.Inv where
  cfg_wf := h.cfg_wf
  raw_wf := rfl
  recon_wf := rfl
  pal_wf := rfl
  raw_below := rfl
  recon_below := rfl
  pal_below := rfl
  no_error := by simp
  error_code := by simp
  pal_size := by simp
  no_pixel := by simp

theorem State.Inv.clearRecon (h : s.Inv) : s.clearRecon.Inv :=
  { h with recon_wf := rfl, recon_below := rfl }

/-- A row no longer than RECON stays within it (10_state.md R41). -/
theorem State.Inv.setReconRow (h : s.Inv) {row : List Byte} (hl : row.length ≤ s.cfg.rowBytesMax) :
    (s.setReconRow row).Inv :=
  { h with
    recon_wf := wf_reconWriteRow row s.recon 0 h.recon_wf
    recon_below := below_reconWriteRow row s.recon 0 s.cfg.rowBytesMax (by omega) h.recon_below }

theorem State.Inv.noPixel (h : s.Inv) : s.noPixel.Inv :=
  { h with no_pixel := by simp }

theorem State.Inv.setPixel (h : s.Inv) (r g b a : Channel) : (s.setPixel r g b a).Inv :=
  { h with no_pixel := by simp }

/-- The last RAW cell is ROW_BYTES_MAX itself (10_state.md R40). -/
theorem State.Inv.setRawByte (h : s.Inv) {k : Nat} (hk : k ≤ s.cfg.rowBytesMax) (v : Byte) :
    (s.setRawByte k v).Inv :=
  { h with
    raw_wf := Memory.wf_write _ _ _ _ h.raw_wf
    raw_below := Memory.below_write rawUnlisted s.raw _ k v (Nat.lt_succ_of_le hk) h.raw_below }

theorem State.Inv.setPalEntry (h : s.Inv) {k : Nat} (hk : k < 256) (v : Rgb) : (s.setPalEntry k v).Inv :=
  { h with
    pal_wf := Memory.wf_write _ _ _ _ h.pal_wf
    pal_below := Memory.below_write palUnlisted s.pal _ k v hk h.pal_below }

theorem State.Inv.returnRead (h : s.Inv) (v : Word) : (s.returnRead v).Inv := { h with }

theorem State.Inv.withPending (h : s.Inv) (rest : List Input) : { s with pending := rest }.Inv := { h with }

/-! ## Every effect keeps it -/

theorem ExecEffect.inv {i : Instr} (he : ExecEffect i s t) (h : s.Inv) : t.Inv := by
  cases he with
  | same => exact h
  | recorded code info _ _ h1 h7 => exact h.recorded info h1 h7
  | reset => exact h.doReset
  | cleared => exact h.clearRecon
  | stored m d row _ _ _ hl hm => exact h.setReconRow (hl.trans_le hm)
  | noPixel => exact h.noPixel
  | pixel r g b a => exact h.setPixel r g b a

theorem ReadEffect.inv {r : Reg} (he : ReadEffect r s t) (h : s.Inv) : t.Inv := by
  cases he with
  | ret v => exact h.returnRead v
  | err code info _ h1 h7 => exact (h.recorded info h1 h7).returnRead 0
  | raw v | recon v | pal v => exact { h with }

theorem WriteEffect.inv {r : Reg} {w : Word} (he : WriteEffect r w s t) (h : s.Inv) : t.Inv := by
  cases he with
  | same => exact h
  | cmd i t _ _ hi => exact hi.inv h
  | err code info _ h1 h7 => exact h.recorded info h1 h7
  | rawData _ b hb => exact { h.setRawByte hb b with }
  | palData _ e => exact { h.setPalEntry s.palAddr.isLt e with }
  | palSize _ v hv => exact { h with pal_size := hv }
  | format | width | rawAddr | reconAddr | palAddr | pixIndex => exact { h with }

/-- Settles O59: a step is idle, a reset, an access the block does not see, or one of the effects of a register read
or write, and each of them keeps the invariant. -/
theorem stepKeepsInvariant : Obligations.StepKeepsInvariant := by
  intro s t hs h
  refine step_all (P := fun s t => s.Inv → t.Inv) ?idle ?reset ?unseen ?read ?write s t h hs
  case idle => exact fun _ h => h
  case reset => exact fun _ rest _ h => h.doReset.withPending rest
  case unseen => exact fun _ _ rest _ h => h.withPending rest
  case read => exact fun _ _ rest _ _ he h => he.inv (h.withPending rest)
  case write => exact fun _ _ _ rest _ _ he h => he.inv (h.withPending rest)

end Sys2Proof.Machine
end

section
/-! Who writes what: the command words behind each kind of instruction, the frame of every effect on the pixel registers
and the three buffers, and from them which steps can write each (10_state.md R37 to R42). -/

namespace Sys2Proof.Machine

variable {s t : State}

/-! ## The word of a command -/

/-- A command word loses nothing in decoding (30_encoding.md R80). -/
theorem encode_of_decode_command {w : Word} {i : Instr} (h : decode (.command w) = .ok i) : encode i = .command w := by
  simp only [decode, decodeCommand] at h
  repeat' split at h
  all_goals cases h
  all_goals subst w; rfl

theorem word_of_reset {w : Word} (h : decode (.command w) = .ok .reset) : w = 0x00000004 := by
  cases encode_of_decode_command h; rfl

theorem word_of_clearPrev {w : Word} (h : decode (.command w) = .ok .clearPrev) : w = 0x00000001 := by
  cases encode_of_decode_command h; rfl

/-- Of the instructions that store a row only DEFILTER is a command. -/
theorem word_of_storesRow {w : Word} {i : Instr} (h : decode (.command w) = .ok i) (hi : Instr.storesRow i) :
    w = 0x00000002 := by
  have he := encode_of_decode_command h
  simp only [Instr.storesRow, List.mem_cons, List.not_mem_nil, or_false] at hi
  rcases hi with rfl | rfl | rfl | rfl | rfl | rfl <;> cases he
  rfl

/-- Of the instructions that write the pixel registers only EXTRACT is a command. -/
theorem word_of_writesPixel {w : Word} {i : Instr} (h : decode (.command w) = .ok i) (hi : Instr.writesPixel i) :
    w = 0x00000003 := by
  have he := encode_of_decode_command h
  rcases hi with rfl | ⟨m, depth, rfl⟩
  · cases he; rfl
  · cases m <;> cases he

/-- A pending write that reaches a named register is a write at that register's offset (10_state.md R22). -/
theorem State.nextIsWrite_of_reg {off : Nat} {w : Word} {rest : List Input} {r : Reg} {ws : Word → Prop}
    (hp : s.pending = .access { master := .host, addr := s.cfg.base + off, bytes := 4, op := .write w } :: rest)
    (hr : Reg.ofOffset off = r) (hn : r ≠ .reserved) (hw : ws w) : s.nextIsWrite r.offset ws := by
  obtain rfl := Reg.ofOffset_eq hr hn
  exact ⟨w, rest, hw, hp⟩

/-! ## The frame of every effect -/

/-- `t` has the PIX_VALID and the PIX registers of `s` (10_state.md R39, R42). -/
def State.SamePixel (s t : State) : Prop :=
  t.pixValid = s.pixValid ∧ t.pixR = s.pixR ∧ t.pixG = s.pixG ∧ t.pixB = s.pixB ∧ t.pixA = s.pixA

theorem State.SamePixel.rfl : s.SamePixel s := ⟨.refl _, .refl _, .refl _, .refl _, .refl _⟩

theorem State.rawByte_congr (h : t.raw = s.raw) (k : Nat) : t.rawByte k = s.rawByte k := by
  simp [State.rawByte, h]

theorem State.reconByte_congr (h : t.recon = s.recon) (k : Nat) : t.reconByte k = s.reconByte k := by
  simp [State.reconByte, h]

theorem State.palEntry_congr (h : t.pal = s.pal) (k : Nat) : t.palEntry k = s.palEntry k := by
  simp [State.palEntry, h]

theorem ExecEffect.recon {i : Instr} (h : ExecEffect i s t) :
    t.recon = s.recon ∨ i = .reset ∨ i = .clearPrev ∨ Instr.storesRow i := by
  cases h with
  | reset hi => exact .inr (.inl hi)
  | cleared hi => exact .inr (.inr (.inl hi))
  | stored _ _ _ hi => exact .inr (.inr (.inr hi))
  | same | recorded | noPixel | pixel => exact .inl rfl

theorem ExecEffect.samePixel {i : Instr} (h : ExecEffect i s t) :
    s.SamePixel t ∨ i = .reset ∨ Instr.writesPixel i := by
  cases h with
  | reset hi => exact .inr (.inl hi)
  | noPixel hi => exact .inr (.inr hi)
  | pixel _ _ _ _ hi => exact .inr (.inr hi)
  | same | recorded | cleared | stored => exact .inl .rfl

/-- No instruction but RESET writes RAW or PAL. -/
theorem ExecEffect.raw_pal {i : Instr} (h : ExecEffect i s t) : (t.raw = s.raw ∧ t.pal = s.pal) ∨ i = .reset := by
  cases h with
  | reset hi => exact .inr hi
  | same | recorded | cleared | stored | noPixel | pixel => exact .inl ⟨rfl, rfl⟩

/-- A read writes no buffer and no pixel register. -/
theorem ReadEffect.frame {r : Reg} (h : ReadEffect r s t) :
    t.raw = s.raw ∧ t.recon = s.recon ∧ t.pal = s.pal ∧ s.SamePixel t := by
  cases h <;> exact ⟨rfl, rfl, rfl, .rfl⟩

theorem WriteEffect.recon {r : Reg} {w : Word} (h : WriteEffect r w s t) :
    t.recon = s.recon ∨ r = .cmd ∧ (w = 0x00000004 ∨ w = 0x00000001 ∨ w = 0x00000002) := by
  cases h with
  | cmd i t hr hd hi =>
    rcases hi.recon with h | rfl | rfl | h
    · exact .inl h
    · exact .inr ⟨hr, .inl (word_of_reset hd)⟩
    · exact .inr ⟨hr, .inr (.inl (word_of_clearPrev hd))⟩
    · exact .inr ⟨hr, .inr (.inr (word_of_storesRow hd h))⟩
  | _ => exact .inl rfl

theorem WriteEffect.samePixel {r : Reg} {w : Word} (h : WriteEffect r w s t) :
    s.SamePixel t ∨ r = .cmd ∧ (w = 0x00000004 ∨ w = 0x00000003) := by
  cases h with
  | cmd i t hr hd hi =>
    rcases hi.samePixel with h | rfl | h
    · exact .inl h
    · exact .inr ⟨hr, .inl (word_of_reset hd)⟩
    · exact .inr ⟨hr, .inr (word_of_writesPixel hd h)⟩
  | _ => exact .inl .rfl

theorem WriteEffect.rawByte {r : Reg} {w : Word} (h : WriteEffect r w s t) :
    (∀ k, t.rawByte k = s.rawByte k) ∨ (r = .cmd ∧ w = 0x00000004) ∨
      (r = .rawData ∧ ∀ k, k ≠ s.rawAddr.toNat → t.rawByte k = s.rawByte k) := by
  cases h with
  | cmd i t hr hd hi =>
    rcases hi.raw_pal with ⟨h, -⟩ | rfl
    · exact .inl (State.rawByte_congr h)
    · exact .inr (.inl ⟨hr, word_of_reset hd⟩)
  | rawData hr b =>
    exact .inr (.inr ⟨hr, fun k hk => (s.rawByte_setRawByte _ k b).trans (if_neg hk)⟩)
  | _ => exact .inl fun _ => rfl

theorem WriteEffect.palEntry {r : Reg} {w : Word} (h : WriteEffect r w s t) :
    (∀ k, t.palEntry k = s.palEntry k) ∨ (r = .cmd ∧ w = 0x00000004) ∨
      (r = .palData ∧ ∀ k, k ≠ s.palAddr.toNat → t.palEntry k = s.palEntry k) := by
  cases h with
  | cmd i t hr hd hi =>
    rcases hi.raw_pal with ⟨-, h⟩ | rfl
    · exact .inl (State.palEntry_congr h)
    · exact .inr (.inl ⟨hr, word_of_reset hd⟩)
  | palData hr e =>
    exact .inr (.inr ⟨hr, fun k hk => (s.palEntry_setPalEntry _ k e).trans (if_neg hk)⟩)
  | _ => exact .inl fun _ => rfl

/-! ## The steps that write -/

/-- Settles O53: only three command words write RECON, and power-on. -/
theorem reconWrittenOnlyByCommands : Obligations.ReconWrittenOnlyByCommands := by
  refine step_all ?idle ?reset ?unseen ?read ?write
  case idle => exact fun _ => .inl fun _ => rfl
  case reset => exact fun _ _ hr => .inr (.inl hr)
  case unseen => exact fun _ _ _ _ => .inl fun _ => rfl
  case read =>
    intro s off rest t _ he
    obtain ⟨-, hrecon, -, -⟩ := he.frame
    exact .inl (State.reconByte_congr hrecon)
  case write =>
    intro s off w rest t hp he
    obtain hrecon | ⟨hr, hw⟩ := he.recon
    · exact .inl (State.reconByte_congr hrecon)
    · have hcmd {v : Word} (h : w = v) : s.nextIsWrite 0x00 (· = v) := State.nextIsWrite_of_reg hp hr (by decide) h
      exact .inr (hw.imp (fun h => .inr (hcmd h)) (.imp hcmd hcmd))

/-- Settles O54: only the words of EXTRACT and RESET write the pixel registers, and power-on. -/
theorem pixelWrittenOnlyByExtract : Obligations.PixelWrittenOnlyByExtract := by
  refine step_all ?idle ?reset ?unseen ?read ?write
  case idle => exact fun _ => .inl State.SamePixel.rfl
  case reset => exact fun _ _ hr => .inr (.inl hr)
  case unseen => exact fun _ _ _ _ => .inl State.SamePixel.rfl
  case read =>
    intro s off rest t _ he
    obtain ⟨-, -, -, hpix⟩ := he.frame
    exact .inl hpix
  case write =>
    intro s off w rest t hp he
    obtain hpix | ⟨hr, hw⟩ := he.samePixel
    · exact .inl hpix
    · have hcmd {v : Word} (h : w = v) : s.nextIsWrite 0x00 (· = v) := State.nextIsWrite_of_reg hp hr (by decide) h
      exact .inr (hw.imp (fun h => .inr (hcmd h)) hcmd)

/-- Settles O55: of the register writes only the buffer's own port and the RESET word reach RAW or PAL. -/
theorem buffersWrittenOnlyThroughPorts : Obligations.BuffersWrittenOnlyThroughPorts := by
  refine step_all ?idle ?reset ?unseen ?read ?write
  case idle => exact fun _ => ⟨.inl fun _ => rfl, .inl fun _ => rfl⟩
  case reset => exact fun _ _ hr => ⟨.inr (.inl hr), .inr (.inl hr)⟩
  case unseen => exact fun _ _ _ _ => ⟨.inl fun _ => rfl, .inl fun _ => rfl⟩
  case read =>
    intro s off rest t _ he
    obtain ⟨hraw, -, hpal, -⟩ := he.frame
    exact ⟨.inl (State.rawByte_congr hraw), .inl (State.palEntry_congr hpal)⟩
  case write =>
    intro s off w rest t hp he
    have hreset (h : Reg.ofOffset off = .cmd ∧ w = 0x00000004) : s.nextIsReset :=
      .inr (State.nextIsWrite_of_reg hp h.1 (by decide) h.2)
    have hport {r : Reg} (hn : r ≠ .reserved) (hr : Reg.ofOffset off = r) : s.nextIsWrite r.offset fun _ => True :=
      State.nextIsWrite_of_reg hp hr hn trivial
    exact ⟨he.rawByte.imp_right (.imp hreset (.imp_left (hport (r := .rawData) (by decide)))),
      he.palEntry.imp_right (.imp hreset (.imp_left (hport (r := .palData) (by decide))))⟩

end Sys2Proof.Machine
end

section
/-! The reads and writes of the registers that hold nothing a host write sets: STATUS, ROW_LEN, BPP, the other read-only
registers and the reserved offsets (10_state.md R24 to R29, R39, R45, R46). -/

namespace Sys2Proof.Machine

/-! ## An access to a named register -/

theorem Reg.offset_le (r : Reg) : r.offset ≤ 0x4C := by cases r <;> decide

theorem Reg.offset_mod (r : Reg) : r.offset % 4 = 0 := by cases r <;> rfl

theorem step_thenRead_offset (r : Reg) (s : State) : step (s.thenRead r.offset) = readRegister r s := by
  rw [step_thenRead s r.offset_mod (r.offset_le.trans_lt (by decide)), Reg.ofOffset_offset]

theorem step_thenWrite_offset (r : Reg) (w : Word) (s : State) :
    step (s.thenWrite r.offset w) = writeRegister r w s := by
  rw [step_thenWrite s w r.offset_mod (r.offset_le.trans_lt (by decide)), Reg.ofOffset_offset]

/-- PIX_A is the last register before the reserved offsets (10_state.md R22, R45). -/
theorem Reg.offset_le_pixA {r : Reg} (h : r ≠ .reserved) : r.offset ≤ 0x48 := by
  cases r <;> simp_all [Reg.offset]

/-- The offsets past PIX_A are reserved (10_state.md R45). -/
theorem Reg.ofOffset_reserved {off : Nat} (h : 0x4C ≤ off) : Reg.ofOffset off = .reserved := by
  by_contra hr
  have hoff := Reg.ofOffset_eq rfl hr
  have hle := Reg.offset_le_pixA hr
  omega

/-! ## STATUS -/

/-- STATUS bit by bit (10_state.md R24). -/
theorem State.getLsbD_statusWord (s : State) (i : Nat) :
    s.statusWord.getLsbD i =
      if i = 0 then s.err else if i = 1 then s.pixValid
      else if i < 8 then false else s.errCode.getLsbD (i - 8) := by
  simp only [State.statusWord, BitVec.getLsbD_append, BitVec.getLsbD_ofBool]
  match i with
  | 0 => simp
  | 1 => simp
  | n + 2 =>
    by_cases hlo : n < 6
    · simp [hlo]
    · by_cases hhi : n - 6 < 8
      · simp [hlo, hhi, Nat.not_lt.mp hlo]
      · simp [hlo, hhi, BitVec.getLsbD_of_ge s.errCode (n - 6) (by omega)]

/-- Settles O45: each clause is a range of the bits of STATUS. -/
theorem statusReadLayout : Obligations.StatusReadLayout := by
  intro s
  have hbit := s.getLsbD_statusWord
  refine ⟨s.statusWord, step_thenRead_offset .status s, hbit 0, hbit 1,
    fun i h2 h8 => ?reserved, ?code, fun i h16 => ?high⟩
  case reserved => rw [hbit, if_neg (by omega), if_neg (by omega), if_pos h8]
  case code =>
    ext i hi
    rw [BitVec.getElem_extractLsb', hbit, if_neg (by omega), if_neg (by omega), if_neg (by omega),
      Nat.add_sub_cancel_left, BitVec.getLsbD_eq_getElem hi]
  case high =>
    rw [hbit, if_neg (by omega), if_neg (by omega), if_neg (by omega)]
    exact BitVec.getLsbD_of_ge _ _ (by omega)

/-! ## ROW_LEN and BPP -/

/-- A word of two fields, `a` from bit 8 on and `b` below, as BPP is (10_state.md R29), bit by bit. -/
theorem getLsbD_ofNat_two_fields {a b : Nat} (hb : b < 2 ^ 8) {i : Nat} (hi : i < 32) :
    (BitVec.ofNat 32 (a * 2 ^ 8 + b)).getLsbD i = if i < 8 then b.testBit i else a.testBit (i - 8) := by
  rw [BitVec.getLsbD_ofNat, Nat.mul_comm, Nat.testBit_two_pow_mul_add a hb, decide_eq_true hi, Bool.true_and]

/-- The bits of BPP outside BPP_BYTES and BITS_PP read 0 (10_state.md R29). -/
theorem getLsbD_bpp_reserved {a b i : Nat} (ha : a ≤ 64) (hb : b ≤ 8) (hi : 4 ≤ i ∧ i < 8 ∨ 15 ≤ i) :
    (BitVec.ofNat 32 (a * 2 ^ 8 + b)).getLsbD i = false := by
  by_cases h32 : i < 32
  · rw [getLsbD_ofNat_two_fields (by omega) h32]
    split
    · have hpow : 2 ^ 4 ≤ 2 ^ i := Nat.pow_le_pow_right (by decide) (by omega)
      exact Nat.testBit_eq_false_of_lt (by omega)
    · have hpow : 2 ^ 7 ≤ 2 ^ (i - 8) := Nat.pow_le_pow_right (by decide) (by omega)
      exact Nat.testBit_eq_false_of_lt (by omega)
  · exact BitVec.getLsbD_of_ge _ _ (by omega)

theorem bytesPerPixel_le {m : ColorModel} {d : Nat} (h : d ∈ m.legalDepths) : bytesPerPixel m d ≤ 8 := by
  have := (bitsPerPixel_bounds h).2
  unfold bytesPerPixel
  omega

theorem rowLenRegister_of_legal {f : FormatBits} {m : ColorModel} {d : Nat} (h : legalFormat f = some (m, d))
    (width : Word) : rowLenRegister f width = saturate (rowLength m d width) := by
  simp [rowLenRegister, h]

theorem bppRegister_of_legal {f : FormatBits} {m : ColorModel} {d : Nat} (h : legalFormat f = some (m, d)) :
    bppRegister f = BitVec.ofNat 32 (bitsPerPixel m d * 2 ^ 8 + bytesPerPixel m d) := by
  simp [bppRegister, h]

theorem rowLenRegister_of_illegal {f : FormatBits} (h : legalFormat f = none) (width : Word) :
    rowLenRegister f width = 0 := by
  simp [rowLenRegister, h]

theorem bppRegister_of_illegal {f : FormatBits} (h : legalFormat f = none) : bppRegister f = 0 := by
  simp [bppRegister, h]

theorem step_read_rowLen (s : State) : step (s.thenRead 0x14) = .next (s.returned (rowLenRegister s.format s.width)) :=
  step_thenRead_offset .rowLen s

theorem step_read_bpp (s : State) : step (s.thenRead 0x18) = .next (s.returned (bppRegister s.format)) :=
  step_thenRead_offset .bpp s

/-- Settles O46: a read computes both registers from FORMAT and WIDTH, and the two counts of a legal format fit their
fields. -/
theorem rowLenAndBppReads : Obligations.RowLenAndBppReads := by
  refine fun s => ⟨fun w => ⟨step_thenWrite_offset .rowLen w s, step_thenWrite_offset .bpp w s⟩,
    fun m d hf => ?_, fun hf => ?_⟩
  · have hd := legalDepths_of_legalFormat hf
    obtain ⟨hbits1, hbits⟩ := bitsPerPixel_bounds hd
    have hbytes := bytesPerPixel_le hd
    rw [step_read_rowLen, step_read_bpp, rowLenRegister_of_legal hf, bppRegister_of_legal hf]
    refine ⟨rfl, _, rfl, ?_, one_le_bytesPerPixel m d, hbytes, ?_, hbits1, hbits,
      fun i h4 h8 => getLsbD_bpp_reserved hbits hbytes (.inl ⟨h4, h8⟩),
      fun i h15 => getLsbD_bpp_reserved hbits hbytes (.inr h15)⟩
    all_goals
      rw [BitVec.extractLsb'_toNat, BitVec.toNat_ofNat, Nat.shiftRight_eq_div_pow]
      omega
  · rw [step_read_rowLen, step_read_bpp, rowLenRegister_of_illegal hf, bppRegister_of_illegal hf]
    exact ⟨rfl, rfl⟩

/-! ## Read-only registers and reserved offsets -/

/-- The registers a write does not reach (10_state.md R22, R45, R46). -/
def Reg.readOnly : Reg → Bool
  | .status | .errInfo | .rowLen | .bpp | .reconData | .pixR | .pixG | .pixB | .pixA | .reserved => true
  | _ => false

theorem writeRegister_readOnly {r : Reg} (h : r.readOnly = true) (w : Word) (s : State) :
    writeRegister r w s = .next s := by
  cases r with
  | status | errInfo | rowLen | bpp | reconData | pixR | pixG | pixB | pixA | reserved => rfl
  | _ => cases h

/-- The read-only registers of the register map, by offset (10_state.md R22). -/
theorem Reg.readOnly_offsets : ∀ off ∈ [0x04, 0x08, 0x14, 0x18, 0x28, 0x3C, 0x40, 0x44, 0x48],
    off % 4 = 0 ∧ off < 0x80 ∧ (Reg.ofOffset off).readOnly = true := by decide

/-- Settles O48: the register at each offset is read-only or reserved, and a read of one is its value. -/
theorem readOnlyAndReservedOffsets : Obligations.ReadOnlyAndReservedOffsets := by
  refine ⟨fun s w off hoff => ?_, fun s w off hlo hhi h4 => ⟨?_, ?_⟩, fun s => ?_⟩
  · obtain ⟨h4, hlt, hro⟩ := Reg.readOnly_offsets off hoff
    rw [step_thenWrite s w h4 hlt, writeRegister_readOnly hro]
  · rw [step_thenWrite s w h4 (by omega), Reg.ofOffset_reserved hlo, writeRegister_readOnly rfl]
  · rw [step_thenRead s h4 (by omega), Reg.ofOffset_reserved hlo]
    rfl
  · simp only [BitVec.ofNat_toNat]
    exact ⟨step_thenRead_offset .cmd s, step_thenRead_offset .errInfo s, step_thenRead_offset .pixR s,
      step_thenRead_offset .pixG s, step_thenRead_offset .pixB s, step_thenRead_offset .pixA s⟩

end Sys2Proof.Machine
end

section
/-! Which accesses the block takes (20_memory.md R61, R62, R70): the window and the supported access said without their
Bool checks, and the outcome of every access that does not reach a register. -/

namespace Sys2Proof.Machine

variable {s : State} {c : Config} {a : Access}

/-- An access touches the window where one of its bytes lies in it (20_memory.md R62). -/
theorem Access.touches_iff (hb : 1 ≤ a.bytes) :
    a.touches c = true ↔ ∃ x, a.addr ≤ x ∧ x < a.addr + a.bytes ∧ c.base ≤ x ∧ x < c.base + 0x80 := by
  simp only [Access.touches, Bool.and_eq_true, decide_eq_true_eq]
  constructor
  · rintro ⟨hlo, hhi⟩
    exact ⟨max a.addr c.base, by omega, by omega, by omega, by omega⟩
  · rintro ⟨x, h1, h2, h3, h4⟩
    omega

theorem Access.supported_iff :
    a.supported c = true ↔ a.bytes = 4 ∧ c.base ≤ a.addr ∧ (a.addr - c.base) % 4 = 0 := by
  simp [Access.supported, and_assoc]

/-- The block does not see an access outside its window (20_memory.md R62; log 5). -/
theorem runAccess_of_outside (h : a.touches s.cfg = false) : runAccess a s = .next s := by
  simp [runAccess, h]

/-- PNGDF serves one bus master (20_memory.md R70). -/
theorem runAccess_of_second (ht : a.touches s.cfg = true) (hm : a.master = .second) :
    runAccess a s = .refused .secondMaster := by
  simp [runAccess, ht, hm]

/-- The window takes 32-bit accesses at multiples of 4 only (20_memory.md R61). -/
theorem runAccess_of_unsupported (ht : a.touches s.cfg = true) (hm : a.master = .host)
    (hs : a.supported s.cfg ≠ true) : runAccess a s = .refused .unsupportedAccess := by
  simp [runAccess, ht, hm, hs]

/-- Settles O52: a byte in the window is what makes the block see an access, and then the master, the width and the
alignment decide. -/
theorem accessesTaken : Obligations.AccessesTaken := by
  intro s rest a hp
  rw [step_of_pending hp]
  refine ⟨fun hout hb => ?outside, fun x h1 h2 h3 h4 => ?inside⟩
  case outside =>
    refine runAccess_of_outside (Bool.eq_false_iff.mpr fun ht => ?_)
    obtain ⟨x, h1, h2, h3, h4⟩ := (Access.touches_iff hb).mp ht
    have := hout x h1 h2
    dsimp only at h3 h4
    omega
  case inside =>
    have ht : a.touches s.cfg = true := (Access.touches_iff (by omega)).mpr ⟨x, h1, h2, h3, h4⟩
    refine ⟨fun hm => runAccess_of_second ht hm, fun hm hb => runAccess_of_unsupported ht hm fun hs => ?_,
      fun hm ha => runAccess_of_unsupported ht hm fun hs => ?_⟩
    all_goals
      have := Access.supported_iff.mp hs
      dsimp only at this
      omega

end Sys2Proof.Machine
end

section
/-! The three data ports (20_memory.md R64 to R66): each port's read and write case by case, and from them the steps. -/

namespace Sys2Proof.Machine

variable {s : State}

/-! ## The bytes of a written word -/

/-- A byte of a word, as the data ports cut it out of the written value (20_memory.md R64, R66). -/
theorem toNat_extract_byte (w : Word) (k : Nat) : (w.extractLsb' k 8).toNat = w.toNat / 2 ^ k % 2 ^ 8 := by
  rw [BitVec.extractLsb'_toNat, Nat.shiftRight_eq_div_pow]

theorem toNat_extract_low_byte (w : Word) : (w.extractLsb' 0 8).toNat = w.toNat % 2 ^ 8 := by
  rw [toNat_extract_byte, Nat.pow_zero, Nat.div_one]

theorem extract_low_byte (w : Word) : w.extractLsb' 0 8 = BitVec.ofNat 8 (w.toNat % 2 ^ 8) := by
  rw [← toNat_extract_low_byte, BitVec.ofNat_toNat, BitVec.setWidth_eq]

/-! ## RAW_DATA -/

theorem writeRawData_of_out (h : s.cfg.rowBytesMax < s.rawAddr.toNat) (w : Word) :
    writeRawData w s = .next (s.raiseError .rawAddrRange s.rawAddr) := by
  simp [writeRawData, h]

theorem writeRawData_of_in (h : s.rawAddr.toNat ≤ s.cfg.rowBytesMax) (w : Word) :
    writeRawData w s =
      .next { s.setRawByte s.rawAddr.toNat (w.extractLsb' 0 8) with rawAddr := s.rawAddr + 1 } := by
  simp [writeRawData, Nat.not_lt.mpr h]

theorem readRawData_of_out (h : s.cfg.rowBytesMax < s.rawAddr.toNat) :
    readRawData s = .next ((s.raiseError .rawAddrRange s.rawAddr).returnRead 0) := by
  simp [readRawData, h]

theorem readRawData_of_unwritten (h : s.rawAddr.toNat ≤ s.cfg.rowBytesMax)
    (hb : s.rawByte s.rawAddr.toNat = none) : readRawData s = .fault (.rawUnwritten s.rawAddr.toNat) := by
  simp [readRawData, Nat.not_lt.mpr h, hb]

theorem readRawData_of_written (h : s.rawAddr.toNat ≤ s.cfg.rowBytesMax) {b : Byte}
    (hb : s.rawByte s.rawAddr.toNat = some b) :
    readRawData s = .next ({ s with rawAddr := s.rawAddr + 1 }.returnRead (b.setWidth 32)) := by
  simp [readRawData, Nat.not_lt.mpr h, hb]

theorem step_write_rawData (s : State) (w : Word) : step (s.thenWrite 0x20 w) = writeRawData w s :=
  step_thenWrite_offset .rawData w s

theorem step_read_rawData (s : State) : step (s.thenRead 0x20) = readRawData s :=
  step_thenRead_offset .rawData s

/-- Settles O49: beyond ROW_BYTES_MAX an access raises RAW_ADDR_RANGE, up to it the port serves the cell RAW_ADDR. -/
theorem rawDataPort : Obligations.RawDataPort := by
  intro s
  simp only [step_write_rawData, step_read_rawData]
  refine ⟨fun hout he => ?first, fun hout he => ?again, fun hin => ⟨fun w => ?store, ?unwritten, fun b hb => ?load⟩⟩
  case first =>
    have hrec := State.raiseError_of_no_error he .rawAddrRange s.rawAddr
    exact ⟨fun w => by rw [writeRawData_of_out hout, hrec]; rfl, by rw [readRawData_of_out hout, hrec]; rfl⟩
  case again =>
    have hsame := State.raiseError_of_error he .rawAddrRange s.rawAddr
    exact ⟨fun w => by rw [writeRawData_of_out hout, hsame], by rw [readRawData_of_out hout, hsame]; rfl⟩
  case store =>
    refine ⟨_, writeRawData_of_in hin w, ?_, fun k hk => ?_, BitVec.toNat_add _ 1, rfl⟩
    · exact ((State.rawByte_setRawByte ..).trans (if_pos rfl)).trans (congrArg some (extract_low_byte w))
    · exact (State.rawByte_setRawByte ..).trans (if_neg hk)
  case unwritten => exact readRawData_of_unwritten hin
  case load =>
    exact ⟨_, readRawData_of_written hin hb, by rw [BitVec.ofNat_toNat]; rfl, BitVec.toNat_add _ 1, rfl⟩

/-! ## RECON_DATA -/

theorem readReconData_of_out (h : s.cfg.rowBytesMax ≤ s.reconAddr.toNat) :
    readReconData s = .next ((s.raiseError .reconAddrRange s.reconAddr).returnRead 0) := by
  simp [readReconData, h]

theorem readReconData_of_in (h : s.reconAddr.toNat < s.cfg.rowBytesMax) :
    readReconData s = .next ({ s with reconAddr := s.reconAddr + 1 }.returnRead
      ((s.reconByte s.reconAddr.toNat).setWidth 32)) := by
  simp [readReconData, Nat.not_le.mpr h]

theorem step_read_reconData (s : State) : step (s.thenRead 0x28) = readReconData s :=
  step_thenRead_offset .reconData s

/-- Settles O50: from ROW_BYTES_MAX on a read raises RECON_ADDR_RANGE, below it returns the byte, and a write does
nothing. -/
theorem reconDataPort : Obligations.ReconDataPort := by
  intro s
  simp only [step_read_reconData]
  refine ⟨fun hout he => ?first, fun hout he => ?again, fun hin => ?load,
    fun w => step_thenWrite_offset .reconData w s⟩
  case first =>
    rw [readReconData_of_out hout, State.raiseError_of_no_error he]
    rfl
  case again =>
    rw [readReconData_of_out hout, State.raiseError_of_error he]
    rfl
  case load =>
    exact ⟨_, readReconData_of_in hin, by rw [BitVec.ofNat_toNat]; rfl, BitVec.toNat_add _ 1, rfl⟩

/-! ## PAL_DATA -/

theorem readPalData_of_unwritten (h : s.palEntry s.palAddr.toNat = none) :
    readPalData s = .fault (.palUnwritten s.palAddr.toNat) := by
  simp [readPalData, h]

theorem readPalData_of_written {e : Rgb} (h : s.palEntry s.palAddr.toNat = some e) :
    readPalData s = .next ({ s with palAddr := s.palAddr + 1 }.returnRead e.toWord) := by
  simp [readPalData, h]

theorem step_write_palData (s : State) (w : Word) : step (s.thenWrite 0x30 w) = writePalData w s :=
  step_thenWrite_offset .palData w s

theorem step_read_palData (s : State) : step (s.thenRead 0x30) = readPalData s :=
  step_thenRead_offset .palData s

/-- Settles O51: a write stores the three bytes of the word in the entry PAL_ADDR, a read puts them together again. -/
theorem palDataPort : Obligations.PalDataPort := by
  intro s
  simp only [step_write_palData, step_read_palData]
  refine ⟨fun w => ?store, readPalData_of_unwritten, fun e he => ?load⟩
  case store =>
    refine ⟨_, Rgb.ofWord w, rfl, ?_, toNat_extract_low_byte w, toNat_extract_byte w 8, toNat_extract_byte w 16,
      fun k hk => ?_, BitVec.toNat_add _ 1, rfl⟩
    · exact (State.palEntry_setPalEntry ..).trans (if_pos rfl)
    · exact (State.palEntry_setPalEntry ..).trans (if_neg hk)
  case load => exact ⟨_, readPalData_of_written he, rfl, BitVec.toNat_add _ 1, rfl⟩

end Sys2Proof.Machine
end

section
/-! Which inputs write the host's registers (20_memory.md R72, 40_commands.md R104): no instruction but RESET, and of the
register accesses only those of the register itself and of its data port. -/

namespace Sys2Proof.Machine

variable {s t : State}

/-- `t` has the host's registers of `s` (10_state.md R26 to R38). -/
structure State.SameHost (s t : State) : Prop where
  format : t.format = s.format
  width : t.width = s.width
  rawAddr : t.rawAddr = s.rawAddr
  reconAddr : t.reconAddr = s.reconAddr
  palAddr : t.palAddr = s.palAddr
  palSize : t.palSize = s.palSize
  pixIndex : t.pixIndex = s.pixIndex

/-- No instruction but RESET writes a register of the host (40_commands.md R104). -/
theorem ExecEffect.sameHost {i : Instr} (h : ExecEffect i s t) : s.SameHost t ∨ i = .reset := by
  cases h with
  | reset hi => exact .inr hi
  | same | recorded | cleared | stored | noPixel | pixel => exact .inl ⟨rfl, rfl, rfl, rfl, rfl, rfl, rfl⟩

/-- Each register of the host has in `t` its value in `s`, or a register that writes it is one of those written (`wr`)
or read (`rd`) by the host (10_state.md R26 to R38). -/
structure State.HostKept (wr rd : Reg → Prop) (s t : State) : Prop where
  format : t.format = s.format ∨ wr .format
  width : t.width = s.width ∨ wr .width
  rawAddr : t.rawAddr = s.rawAddr ∨ wr .rawAddr ∨ wr .rawData ∨ rd .rawData
  reconAddr : t.reconAddr = s.reconAddr ∨ wr .reconAddr ∨ rd .reconData
  palAddr : t.palAddr = s.palAddr ∨ wr .palAddr ∨ wr .palData ∨ rd .palData
  palSize : t.palSize = s.palSize ∨ wr .palSize
  pixIndex : t.pixIndex = s.pixIndex ∨ wr .pixIndex

variable {wr rd wr' rd' : Reg → Prop}

theorem State.SameHost.kept (h : s.SameHost t) : s.HostKept wr rd t :=
  ⟨.inl h.format, .inl h.width, .inl h.rawAddr, .inl h.reconAddr, .inl h.palAddr, .inl h.palSize, .inl h.pixIndex⟩

theorem State.HostKept.refl (s : State) : s.HostKept wr rd s :=
  State.SameHost.kept ⟨rfl, rfl, rfl, rfl, rfl, rfl, rfl⟩

theorem State.HostKept.of_pending {rest : List Input} (h : { s with pending := rest }.HostKept wr rd t) :
    s.HostKept wr rd t :=
  { h with }

/-- More accesses may be named; the reserved offsets are no register's, so nothing is asked of them. -/
theorem State.HostKept.mono (h : s.HostKept wr rd t) (hw : ∀ r, r ≠ .reserved → wr r → wr' r)
    (hr : ∀ r, r ≠ .reserved → rd r → rd' r) : s.HostKept wr' rd' t where
  format := h.format.imp_right (hw _ (by decide))
  width := h.width.imp_right (hw _ (by decide))
  rawAddr := h.rawAddr.imp_right (.imp (hw _ (by decide)) (.imp (hw _ (by decide)) (hr _ (by decide))))
  reconAddr := h.reconAddr.imp_right (.imp (hw _ (by decide)) (hr _ (by decide)))
  palAddr := h.palAddr.imp_right (.imp (hw _ (by decide)) (.imp (hw _ (by decide)) (hr _ (by decide))))
  palSize := h.palSize.imp_right (hw _ (by decide))
  pixIndex := h.pixIndex.imp_right (hw _ (by decide))

/-- A read moves on the address register of the data port it reads, if any (20_memory.md R64 to R66). -/
theorem ReadEffect.hostKept {r : Reg} (h : ReadEffect r s t) : s.HostKept wr (r = ·) t := by
  have same : s.HostKept wr (r = ·) s := .refl s
  cases h with
  | ret | err => exact { same with }
  | raw _ hr => exact { same with rawAddr := .inr (.inr (.inr hr)) }
  | recon _ hr => exact { same with reconAddr := .inr (.inr hr) }
  | pal _ hr => exact { same with palAddr := .inr (.inr (.inr hr)) }

/-- A write changes the register written, or the address register of the data port written; a command none, unless it
is RESET (40_commands.md R104). -/
theorem WriteEffect.hostKept {r : Reg} {w : Word} (h : WriteEffect r w s t) :
    s.HostKept (r = ·) rd t ∨ r = .cmd ∧ w = 0x00000004 := by
  have same : s.HostKept (r = ·) rd s := .refl s
  cases h with
  | same => exact .inl same
  | err => exact .inl { same with }
  | cmd i t hr hd hi =>
    rcases hi.sameHost with h | rfl
    · exact .inl h.kept
    · exact .inr ⟨hr, word_of_reset hd⟩
  | format hr => exact .inl { same with format := .inr hr }
  | width hr => exact .inl { same with width := .inr hr }
  | rawAddr hr => exact .inl { same with rawAddr := .inr (.inl hr) }
  | rawData hr => exact .inl { same with rawAddr := .inr (.inr (.inl hr)) }
  | reconAddr hr => exact .inl { same with reconAddr := .inr (.inl hr) }
  | palAddr hr => exact .inl { same with palAddr := .inr (.inl hr) }
  | palData hr => exact .inl { same with palAddr := .inr (.inr (.inl hr)) }
  | palSize hr => exact .inl { same with palSize := .inr hr }
  | pixIndex hr => exact .inl { same with pixIndex := .inr hr }

/-! ## The parameters -/

theorem ExecEffect.cfg {i : Instr} (h : ExecEffect i s t) : t.cfg = s.cfg := by
  cases h <;> rfl

theorem ReadEffect.cfg {r : Reg} (h : ReadEffect r s t) : t.cfg = s.cfg := by
  cases h <;> rfl

theorem WriteEffect.cfg {r : Reg} {w : Word} (h : WriteEffect r w s t) : t.cfg = s.cfg := by
  cases h with
  | cmd i t _ _ hi => exact hi.cfg
  | _ => rfl

/-- The parameters never change (00_scope.md R7). -/
theorem step_cfg : ∀ s t : State, step s = .next t → t.cfg = s.cfg := by
  refine step_all ?idle ?reset ?unseen ?read ?write
  case idle => exact fun _ => rfl
  case reset => exact fun _ _ _ => rfl
  case unseen => exact fun _ _ _ _ => rfl
  case read => exact fun _ _ _ _ _ he => he.cfg
  case write => exact fun _ _ _ _ _ _ he => he.cfg

/-! ## The steps that write -/

theorem State.nextIsRead_of_reg {off : Nat} {rest : List Input} {r : Reg}
    (hp : s.pending = .access { master := .host, addr := s.cfg.base + off, bytes := 4, op := .read } :: rest)
    (hr : Reg.ofOffset off = r) (hn : r ≠ .reserved) : s.nextIsRead r.offset := by
  obtain rfl := Reg.ofOffset_eq hr hn
  exact ⟨rest, hp⟩

/-- In a step that is no reset the accesses that write a register of the host are the host's own (20_memory.md R72). -/
theorem step_hostKept : ∀ s t : State, step s = .next t → s.nextIsReset ∨
    s.HostKept (fun r => s.nextIsWrite r.offset fun _ => True) (fun r => s.nextIsRead r.offset) t := by
  refine step_all ?idle ?reset ?unseen ?read ?write
  case idle => exact fun s => .inr (.refl s)
  case reset => exact fun _ _ hr => .inl hr
  case unseen => exact fun _ _ _ _ => .inr (State.HostKept.refl _).of_pending
  case read =>
    intro s off rest t hp he
    have hk := he.hostKept (wr := fun _ => False)
    exact .inr (hk.of_pending.mono (fun _ _ => False.elim) fun _ hn hr => State.nextIsRead_of_reg hp hr hn)
  case write =>
    intro s off w rest t hp he
    rcases he.hostKept (rd := fun _ => False) with hk | ⟨hr, hw⟩
    · exact .inr (hk.of_pending.mono (fun _ hn hr => State.nextIsWrite_of_reg hp hr hn trivial)
        fun _ _ => False.elim)
    · exact .inl (.inr (State.nextIsWrite_of_reg hp hr (by decide) hw))

/-- Settles O56: a register that is not kept was written by an access to it or to its data port, or by a reset. -/
theorem hostRegistersWrittenOnlyByHost : Obligations.HostRegistersWrittenOnlyByHost := by
  refine fun s t h => ⟨step_cfg s t h, (step_hostKept s t h).imp_right fun hk => ?_⟩
  exact ⟨hk.format, hk.width, hk.rawAddr, hk.reconAddr, hk.palAddr, hk.palSize, hk.pixIndex⟩

end Sys2Proof.Machine
end

section
/-! EXTRACT twice (20_memory.md R72): neither its gate nor a variant reads what EXTRACT writes, so the second one takes
the branch of the first and writes the same values. -/

namespace Sys2Proof.Machine

variable {s t : State}

/-- EXTRACT is ignored while ERR = 1, whatever FORMAT holds (40_commands.md R103). -/
theorem exec_extract_of_error (h : s.err = true) : exec .extract s = .next s := by
  cases hm : ColorModel.ofByte (FormatBits.colorType s.format) with
  | some m => rw [exec_extract_of_variant (ColorModel.ofByte_eq_some.mp hm), exec_variant, extractWith_of_error h]
  | none => rw [exec_extract_of_no_variant hm, State.raiseError_of_error h]

/-- A variant does not read the pixel registers: after any pixel it answers as before, unless that was an error. -/
theorem variantRun_setPixel {m : ColorModel} {d n : Nat} (h : variantRun s m d n = .next t) :
    t.err = true ∨ ∀ r g b a, variantRun (s.setPixel r g b a) m d n = .next t := by
  cases m with
  | palette =>
    simp only [variantRun] at h
    split at h
    · cases h; exact .inl (State.raiseError_err ..)
    · next hix =>
      refine .inr fun r g b a => (if_neg hix).trans ?_
      exact h
  | greyscale | rgb | greyscaleAlpha | rgba => exact .inr fun _ _ _ _ => h

/-- A variant instruction takes the branch it took before. -/
theorem exec_variant_again {m : ColorModel} {depth : Byte} (h : exec (m.instr depth) s = .next t) :
    exec (m.instr depth) t = .next t := by
  rw [exec_variant] at h ⊢
  rcases extractWith_cases m depth s (variantRun s m) with
    ⟨he, hg⟩ | ⟨code, info, -, -, -, hg⟩ | ⟨he, hd, hl, hn, hg⟩ | ⟨hr, hg⟩
  · rw [hg] at h; cases h; exact hg
  · rw [hg] at h; cases h; exact extractWith_of_error rfl _ _
  · rw [hg] at h; cases h; exact extractWith_of_no_pixel (s := s.noPixel) he hd hl hn _
  · rw [hg] at h
    rcases variantRun_setPixel h with he | hagain
    · exact extractWith_of_error he _ _
    · rcases variantRun_next s m _ _ hr.no_error h with ⟨code, info, -, -, rfl⟩ | ⟨r, g, b, a, rfl⟩
      · exact extractWith_of_error rfl _ _
      · have hr' : (s.setPixel r g b a).PixelReady m depth := ⟨hr.no_error, hr.legal, hr.fits, hr.in_row⟩
        rw [extractWith_of_ready hr']
        exact hagain r g b a

/-- Settles O39: FORMAT is as it was, so the second EXTRACT is the same variant again; after an error it is ignored. -/
theorem extractIsIdempotent : Obligations.ExtractIsIdempotent := by
  intro s t h
  cases hm : ColorModel.ofByte (FormatBits.colorType s.format) with
  | none =>
    rw [exec_extract_of_no_variant hm] at h
    cases h
    exact exec_extract_of_error (State.raiseError_err ..)
  | some m =>
    have hct := ColorModel.ofByte_eq_some.mp hm
    have hformat : t.format = s.format := ((exec_next .extract s h).sameHost.resolve_right (by decide)).format
    rw [exec_extract_of_variant hct] at h
    rw [exec_extract_of_variant (hformat ▸ hct), hformat]
    exact exec_variant_again h

end Sys2Proof.Machine
end

section
/-! The three encodings (30_encoding.md): the code word of a filter and of a variant and what each decodes to, decoding
and encoding as inverses, the legality table, EXTRACT by its FORMAT, and the loader's step. -/

namespace Sys2Proof

/-! ## Encoding and decoding a filter, a variant and a command -/

@[simp] theorem encode_filterInstr (ft : FilterType) : encode ft.instr = .filter ft.toByte := by cases ft <;> rfl

@[simp] theorem encode_variantInstr (m : ColorModel) (depth : Byte) :
    encode (m.instr depth) = .format (FormatBits.make m.toByte depth) := by cases m <;> rfl

/-- A filter byte decodes to the filter whose numeral it is, and to nothing else (30_encoding.md R82). -/
theorem decode_filter_eq_ok {b : Byte} {i : Instr} :
    decode (.filter b) = .ok i ↔ ∃ ft : FilterType, b = ft.toByte ∧ i = ft.instr := by
  simp only [decode, decodeFilter, ← FilterType.ofByte_eq_some]
  cases FilterType.ofByte b <;> simp [eq_comm]

/-- A format field decodes to the variant of its COLOR_TYPE, with its BIT_DEPTH (30_encoding.md R85). -/
theorem decode_format_eq_ok {f : FormatBits} {i : Instr} :
    decode (.format f) = .ok i ↔
      ∃ m : ColorModel, FormatBits.colorType f = m.toByte ∧ i = m.instr (FormatBits.bitDepth f) := by
  simp only [decode, decodeFormat, ← ColorModel.ofByte_eq_some]
  cases ColorModel.ofByte (FormatBits.colorType f) <;> simp [eq_comm]

theorem decode_encode_filterInstr (ft : FilterType) : decode (encode ft.instr) = .ok ft.instr := by
  rw [encode_filterInstr, decode_filter_eq_ok]
  exact ⟨ft, rfl, rfl⟩

theorem decode_encode_variantInstr (m : ColorModel) (depth : Byte) :
    decode (encode (m.instr depth)) = .ok (m.instr depth) := by
  rw [encode_variantInstr, decode_format_eq_ok]
  exact ⟨m, by simp, by simp⟩

/-- Decoding inverts encoding on every instruction, those with an illegal depth included (log 8). -/
theorem decode_encode (i : Instr) : decode (encode i) = .ok i := by
  cases i with
  | nop | clearPrev | defilter | extract | reset => rfl
  | filterNone => exact decode_encode_filterInstr .none
  | filterSub => exact decode_encode_filterInstr .sub
  | filterUp => exact decode_encode_filterInstr .up
  | filterAverage => exact decode_encode_filterInstr .average
  | filterPaeth => exact decode_encode_filterInstr .paeth
  | pixGreyscale depth => exact decode_encode_variantInstr .greyscale depth
  | pixRgb depth => exact decode_encode_variantInstr .rgb depth
  | pixPalette depth => exact decode_encode_variantInstr .palette depth
  | pixGreyscaleAlpha depth => exact decode_encode_variantInstr .greyscaleAlpha depth
  | pixRgba depth => exact decode_encode_variantInstr .rgba depth

/-- Settles O3: it holds of every instruction, because COLOR_TYPE alone picks the variant and the depth is carried over
as it stands. -/
theorem decodeEncodeRoundTrip : Obligations.DecodeEncodeRoundTrip := fun i _ => decode_encode i

/-- Settles O4: in each of the three encodings the decoder reads back every bit the encoder writes. -/
theorem decodedWordsAreCanonical : Obligations.DecodedWordsAreCanonical := by
  intro c i h
  cases c with
  | command w => exact Machine.encode_of_decode_command h
  | filter b =>
    obtain ⟨ft, rfl, rfl⟩ := decode_filter_eq_ok.mp h
    exact encode_filterInstr ft
  | format f =>
    obtain ⟨m, hct, rfl⟩ := decode_format_eq_ok.mp h
    rw [encode_variantInstr, ← hct, FormatBits.make_fields]

/-- A command word from 5 up is none of the five (30_encoding.md R81). -/
theorem decode_command_of_five_le {w : Word} (h : 5 ≤ w.toNat) : decode (.command w) = .error (.badCommand w) := by
  simp only [decode, decodeCommand]
  rw [if_neg (by bv_omega), if_neg (by bv_omega), if_neg (by bv_omega), if_neg (by bv_omega), if_neg (by bv_omega)]

/-- Settles O1: the five words are the code words of the five commands, and every other word is 5 or more. -/
theorem commandWordsMatchAllBits : Obligations.CommandWordsMatchAllBits :=
  ⟨decode_encode .nop, decode_encode .clearPrev, decode_encode .defilter, decode_encode .extract, decode_encode .reset,
    fun _ => decode_command_of_five_le⟩

/-- Settles O2: thirteen closed words, evaluated. -/
theorem specWordsDecode : Obligations.SpecWordsDecode := by
  unfold Obligations.SpecWordsDecode
  decide

end Sys2Proof

namespace Sys2Proof.Machine

variable {s : State}

/-! ## The legality table (30_encoding.md R84) -/

/-- The pairs (COLOR_TYPE, BIT_DEPTH) of table LEGAL, model by model. -/
def legalPairs : List (Nat × Nat) :=
  [ColorModel.greyscale, .rgb, .palette, .greyscaleAlpha, .rgba].flatMap fun m =>
    m.legalDepths.map (m.toByte.toNat, ·)

theorem mem_legalPairs {ct : Byte} {d : Nat} :
    (ct.toNat, d) ∈ legalPairs ↔ ∃ m : ColorModel, ct = m.toByte ∧ d ∈ m.legalDepths := by
  have hall (m : ColorModel) : m ∈ [ColorModel.greyscale, .rgb, .palette, .greyscaleAlpha, .rgba] := by
    cases m <;> decide
  simp [legalPairs, -List.flatMap_cons, hall, BitVec.toNat_inj, eq_comm, and_comm]

theorem legalFormat_ne_none {ct depth : Byte} :
    legalFormat (ct ++ depth) ≠ none ↔ (ct.toNat, depth.toNat) ∈ legalPairs := by
  rw [show ct ++ depth = FormatBits.make ct depth from rfl, Option.ne_none_iff_exists', mem_legalPairs]
  simp [legalFormat_eq_some]

/-- EXTRACT raises INVALID_FORMAT on every illegal FORMAT, with or without a variant (30_encoding.md R84). -/
theorem exec_extract_of_illegal (he : s.err = false) (hf : legalFormat s.format = none) :
    exec .extract s = .next (s.recorded 0x02 (s.format.setWidth 32)) := by
  cases hm : ColorModel.ofByte (FormatBits.colorType s.format) with
  | none => rw [exec_extract_of_no_variant hm, State.raiseError_of_no_error he]; rfl
  | some m =>
    have hct := ColorModel.ofByte_eq_some.mp hm
    have hdepth : (FormatBits.bitDepth s.format).toNat ∉ m.legalDepths := fun hd =>
      absurd (legalFormat_eq_some.mpr ⟨hct, rfl, hd⟩) (by simp [hf])
    rw [exec_extract_of_variant hct, exec_variant, extractWith_of_illegal he hdepth, ← hct, FormatBits.make_fields]

/-- Settles O5: the listed pairs are table LEGAL model by model, the 15 rows of derived columns are closed, and an
illegal FORMAT is caught by the gate of each command. -/
theorem legalityTable : Obligations.LegalityTable := by
  refine ⟨fun ct d => legalFormat_ne_none, by decide, fun s he hf => ⟨?defilter, ?extract⟩⟩
  case defilter => exact defilterGate_of_illegal he hf _
  case extract => exact exec_extract_of_illegal he hf

/-! ## EXTRACT by its FORMAT (30_encoding.md R85) -/

theorem exec_extract_of_format {m : ColorModel} {depth : Byte} (h : s.format = FormatBits.make m.toByte depth) :
    exec .extract s = exec (m.instr depth) s := by
  rw [exec_extract_of_variant (m := m) (by simp [h]), h, FormatBits.bitDepth_make]

/-- Settles O9: the five colour types are those of the five models. -/
theorem extractPicksVariantFromColorType : Obligations.ExtractPicksVariantFromColorType := fun _ _ =>
  ⟨exec_extract_of_format (m := .greyscale), exec_extract_of_format (m := .greyscaleAlpha),
    exec_extract_of_format (m := .rgb), exec_extract_of_format (m := .rgba), exec_extract_of_format (m := .palette)⟩

/-! ## The loader (log 3) -/

theorem writeCmd_of_decode {w : Word} {i : Instr} (h : decode (.command w) = .ok i) (s : State) :
    writeCmd w s = exec i s := by
  simp [writeCmd, h]

/-- A loaded command word runs on the state it was loaded into. -/
theorem step_loadCommand_of_decode {w : Word} {i : Instr} (h : decode (.command w) = .ok i) {x : State}
    (hx : x.pending = s.pending) :
    step (x.loadCommand w) = exec i { x.loadCommand w with pending := s.pending } := by
  rw [step_loadCommand, writeCmd_of_decode h, State.loadCommand_done hx]

/-- A loaded code word runs next: a command by itself, a filter through DEFILTER, a variant through EXTRACT. -/
theorem step_loadCodeWord {c : CodeWord} {i : Instr} (h : decode c = .ok i) (s : State) :
    step (s.loadCodeWord c) = exec i { s.loadCodeWord c with pending := s.pending } := by
  cases c with
  | command w => exact step_loadCommand_of_decode h rfl
  | filter b =>
    obtain ⟨ft, hb, rfl⟩ := decode_filter_eq_ok.mp h
    rw [State.loadCodeWord, step_loadCommand_of_decode (decode_encode .defilter) (s.holdFilter_pending b),
      State.loadCommand_done (s.holdFilter_pending b)]
    exact exec_defilter_of_filter (s.rawByte_holdFilter_zero b) (FilterType.ofByte_eq_some.mpr hb)
  | format f =>
    obtain ⟨m, hct, rfl⟩ := decode_format_eq_ok.mp h
    rw [State.loadCodeWord, step_loadCommand_of_decode (decode_encode .extract) (s.holdFormat_pending f),
      State.loadCommand_done (s.holdFormat_pending f)]
    exact exec_extract_of_variant (s := s.holdFormat f) hct

/-- A table word that decodes is a code word that does. -/
theorem decodeTableWord_eq_some {nbits w : Nat} {i : Instr} (h : decodeTableWord nbits w = some i) :
    ∃ c, CodeWord.ofTable nbits w = some c ∧ decode c = .ok i := by
  unfold decodeTableWord at h
  split at h
  · cases h
  · next c hc =>
    split at h
    · next i' hi => cases h; exact ⟨c, hc, hi⟩
    · cases h

/-- Settles O10: the loader places the code word the table word stands for. -/
theorem loadedWordRunsNext : Obligations.LoadedWordRunsNext := by
  intro s nbits w i h
  obtain ⟨c, hc, hi⟩ := decodeTableWord_eq_some h
  have hload : s.withFetchWord nbits w = s.loadCodeWord c := by simp [State.withFetchWord, hc]
  rw [hload]
  exact step_loadCodeWord hi s

/-! ## The bits of a sample (30_encoding.md R86, R87) -/

/-- The shift and mask of a sub-byte field, as a quotient and a remainder (30_encoding.md R86). -/
theorem subByteSample_eq (s : State) (d n : Nat) :
    subByteSample s d n = (s.reconByte (n * d / 8)).toNat / 2 ^ (8 - d * (n % (8 / d) + 1)) % 2 ^ d := by
  rw [subByteSample, Nat.and_two_pow_sub_one_eq_mod, Nat.shiftRight_eq_div_pow]

/-- Settles O29: below 8 bits the sample is the sub-byte field; 8 and 16 bits take the byte and the big-endian pair. -/
theorem sampleFields : Obligations.SampleFields := by
  intro s m n j
  refine ⟨fun d hd => ?subByte, rfl, rfl⟩
  case subByte =>
    have hlt : d < 8 := by simp at hd; omega
    rw [sample, if_pos hlt, subByteSample_eq]

end Sys2Proof.Machine
end

section
/-! The CMD write and the housekeeping commands (40_commands.md R100 to R103): the command a word names, the gate of
every instruction while ERR = 1, and that a write which records an error leaves everything else as it was. -/

namespace Sys2Proof.Machine

variable {s t : State}

/-! ## The command a word names -/

/-- Settles O7: the access at offset 0 is a CMD write, and a CMD write is the command. -/
theorem stepRunsDecodedCommand : Obligations.StepRunsDecodedCommand := fun s w _ h =>
  (step_thenWrite_offset .cmd w s).trans (writeCmd_of_decode h s)

theorem writeCmd_of_five_le {w : Word} (h : 5 ≤ w.toNat) (s : State) :
    writeCmd w s = .next (s.raiseError .badCommand w) := by
  simp [writeCmd, decode_command_of_five_le h]

/-! ## NOP and CLEAR_PREV -/

/-- Settles O12: NOP has word 0 and answers the state it ran on. -/
theorem nopChangesNothing : Obligations.NopChangesNothing := ⟨rfl, fun _ => rfl⟩

theorem exec_clearPrev_of_no_error (h : s.err = false) : exec .clearPrev s = .next s.clearRecon := by
  change execClearPrev s = _
  simp [execClearPrev, h]

theorem exec_clearPrev_of_error (h : s.err = true) : exec .clearPrev s = .next s := by
  change execClearPrev s = _
  simp [execClearPrev, h]

/-- Settles O13: the two sides of the gate of R103. -/
theorem clearPrevZeroesRecon : Obligations.ClearPrevZeroesRecon :=
  ⟨rfl, fun s h => ⟨s.clearRecon, exec_clearPrev_of_no_error h, s.reconByte_clearRecon, rfl⟩,
    fun _ => exec_clearPrev_of_error⟩

/-! ## While ERR = 1 -/

theorem exec_filter_of_error (ft : FilterType) (h : s.err = true) : exec ft.instr s = .next s := by
  rw [exec_filter, defilterGate_of_error h]

theorem exec_variant_of_error (m : ColorModel) (depth : Byte) (h : s.err = true) :
    exec (m.instr depth) s = .next s := by
  rw [exec_variant, extractWith_of_error h]

/-- While ERR = 1 every instruction but RESET is ignored (40_commands.md R103). -/
theorem exec_of_error {i : Instr} (h : s.err = true) (hi : i ≠ .reset) : exec i s = .next s := by
  cases i with
  | reset => exact absurd rfl hi
  | nop => rfl
  | clearPrev => exact exec_clearPrev_of_error h
  | defilter => exact defilterGate_of_error h _
  | extract => exact exec_extract_of_error h
  | filterNone => exact exec_filter_of_error .none h
  | filterSub => exact exec_filter_of_error .sub h
  | filterUp => exact exec_filter_of_error .up h
  | filterAverage => exact exec_filter_of_error .average h
  | filterPaeth => exact exec_filter_of_error .paeth h
  | pixGreyscale depth => exact exec_variant_of_error .greyscale depth h
  | pixRgb depth => exact exec_variant_of_error .rgb depth h
  | pixPalette depth => exact exec_variant_of_error .palette depth h
  | pixGreyscaleAlpha depth => exact exec_variant_of_error .greyscaleAlpha depth h
  | pixRgba depth => exact exec_variant_of_error .rgba depth h

/-- While ERR = 1 a CMD write of any word but that of RESET is ignored (40_commands.md R103). -/
theorem writeCmd_of_error {w : Word} (h : s.err = true) (hw : w ≠ 0x00000004) : writeCmd w s = .next s := by
  cases hd : decode (.command w) with
  | ok i =>
    have hi : i ≠ .reset := by
      rintro rfl
      exact hw (word_of_reset hd)
    rw [writeCmd_of_decode hd, exec_of_error h hi]
  | error e => simp [writeCmd, hd, State.raiseError_of_error h]

/-! ## A write that records an error -/

/-- An instruction that raises an error changes only the error record (60_exceptions.md R181). -/
theorem ExecEffect.eq_recorded {i : Instr} (h : ExecEffect i s t) (he : s.err = false) (ht : t.err = true) :
    t = s.recorded t.errCode t.errInfo := by
  cases h with
  | recorded => rfl
  | reset => cases ht
  | same | cleared | stored | noPixel | pixel => exact absurd (he.symm.trans ht) (by decide)

/-- A write that raises an error changes only the error record (60_exceptions.md R181). -/
theorem WriteEffect.eq_recorded {r : Reg} {w : Word} (h : WriteEffect r w s t) (he : s.err = false)
    (ht : t.err = true) : t = s.recorded t.errCode t.errInfo := by
  cases h with
  | cmd i t _ _ hi => exact hi.eq_recorded he ht
  | err => rfl
  | _ => exact absurd (he.symm.trans ht) (by decide)

/-- Settles O41: a word below 5 runs its command, a word from 5 up raises BAD_COMMAND, ERR = 1 gates all but RESET, and
the last clause is the frame of a write that records an error. -/
theorem cmdWriteDispatch : Obligations.CmdWriteDispatch := by
  refine ⟨fun s => ?reset, fun s => ?nop, fun s w he hw => ?ignored, fun s _ => ⟨?clearPrev, ?defilter, ?extract⟩,
    fun s w he hw => ?badCommand, fun s t w he h ht => ?frame⟩
  case reset => exact stepRunsDecodedCommand s _ _ (decode_encode .reset)
  case nop => exact stepRunsDecodedCommand s _ _ (decode_encode .nop)
  case ignored => exact (step_thenWrite_offset .cmd w s).trans (writeCmd_of_error he hw)
  case clearPrev => exact stepRunsDecodedCommand s _ _ (decode_encode .clearPrev)
  case defilter => exact stepRunsDecodedCommand s _ _ (decode_encode .defilter)
  case extract => exact stepRunsDecodedCommand s _ _ (decode_encode .extract)
  case badCommand =>
    have hcmd := (step_thenWrite_offset .cmd w s).trans (writeCmd_of_five_le hw s)
    rwa [State.raiseError_of_no_error he] at hcmd
  case frame =>
    have hcmd : writeRegister .cmd w s = .next t := (step_thenWrite_offset .cmd w s).symm.trans h
    exact (writeRegister_next .cmd w s t hcmd).eq_recorded he ht

end Sys2Proof.Machine
end

section
/-! The plain RW registers (40_commands.md R104): the low bits of a word, which a register narrower than 32 bits keeps,
and each register's write and read. -/

namespace Sys2Proof.Machine

/-- A register of `n` bits keeps the value of the word modulo `2 ^ n` (10_state.md R26, R34, R36). -/
theorem extract_low_bits (n : Nat) (w : Word) : w.extractLsb' 0 n = BitVec.ofNat n (w.toNat % 2 ^ n) := by
  apply BitVec.eq_of_toNat_eq
  rw [BitVec.extractLsb'_toNat, BitVec.toNat_ofNat, Nat.shiftRight_zero, Nat.mod_mod]

theorem clampPalSize_eq (w : Word) : clampPalSize w = BitVec.ofNat 9 (min (w.toNat % 2 ^ 9) 256) := by
  rw [clampPalSize, BitVec.extractLsb'_toNat, Nat.shiftRight_zero]

/-- Settles O47: each access is one of a named register, and the narrow registers keep the low bits of the word. -/
theorem plainRegistersStoreAndReadBack : Obligations.PlainRegistersStoreAndReadBack := by
  refine ⟨fun s w => ?writes, fun s => ?reads⟩
  case writes =>
    rw [← extract_low_bits, ← extract_low_bits, ← clampPalSize_eq]
    exact ⟨step_thenWrite_offset .format w s, step_thenWrite_offset .width w s, step_thenWrite_offset .rawAddr w s,
      step_thenWrite_offset .reconAddr w s, step_thenWrite_offset .palAddr w s, step_thenWrite_offset .palSize w s,
      step_thenWrite_offset .pixIndex w s⟩
  case reads =>
    simp only [BitVec.ofNat_toNat]
    exact ⟨step_thenRead_offset .format s, step_thenRead_offset .width s, step_thenRead_offset .rawAddr s,
      step_thenRead_offset .reconAddr s, step_thenRead_offset .palAddr s, step_thenRead_offset .palSize s,
      step_thenRead_offset .pixIndex s⟩

end Sys2Proof.Machine
end

section
/-! The row transform (41_defilter.md R121 to R130): the five predictors, the transform as the only row whose bytes meet
the recurrence of R121, and the inverse law. -/

namespace Sys2Proof.Machine

/-! ## The predictors -/

/-- The mean of two bytes is a byte, so nothing is lost (41_defilter.md R125, R129). -/
theorem toNat_average (a b : Byte) : (average a b).toNat = (a.toNat + b.toNat) / 2 := by
  have ha := a.isLt
  have hb := b.isLt
  rw [average, BitVec.toNat_ofNat, Nat.mod_eq_of_lt (by omega)]

/-- With nothing above the mean is half of left (41_defilter.md R128). -/
theorem toNat_average_left (a : Byte) : (average a 0).toNat = a.toNat / 2 := toNat_average a 0

/-- With nothing on the left the mean is half of above (41_defilter.md R132). -/
theorem toNat_average_above (b : Byte) : (average 0 b).toNat = b.toNat / 2 := by
  rw [toNat_average]
  simp

/-- The Paeth predictor through its three distances (41_defilter.md R127). -/
theorem paeth_eq_of_distances (a b c : Byte) {p pa pb pc : Int} (hp : p = (a.toNat : Int) + b.toNat - c.toNat)
    (ha : pa = |p - a.toNat|) (hb : pb = |p - b.toNat|) (hc : pc = |p - c.toNat|) :
    paeth a b c = if pa ≤ pb ∧ pa ≤ pc then a else if pb ≤ pc then b else c := by
  subst hp ha hb hc
  simp only [paeth, ← Int.natCast_natAbs, Int.ofNat_le]

/-- With nothing above the predictor is left: the distances are 0, a and a (41_defilter.md R128). -/
theorem paeth_left (a : Byte) : paeth a 0 0 = a := by
  rw [paeth_eq_of_distances a 0 0 rfl rfl rfl rfl]
  simp

/-- With nothing on the left the predictor is above: the distances are b, 0 and b (41_defilter.md R132). -/
theorem paeth_above (b : Byte) : paeth 0 b 0 = b := by
  rw [paeth_eq_of_distances 0 b 0 rfl rfl rfl rfl]
  simp [BitVec.toNat_eq, eq_comm]

/-- Settles O21: the three distances as R127 names them, and the choice they make. -/
theorem paethPicksNearest : Obligations.PaethPicksNearest := by
  refine ⟨fun a b c p pa pb pc hp ha hb hc => ?_, by decide, by decide, by decide⟩
  have hchoice := paeth_eq_of_distances a b c hp ha hb hc
  refine ⟨?range, ?distances, fun h => ?left, fun h h' => ?above, fun h h' => ?upperLeft⟩
  case range =>
    have := a.isLt
    have := b.isLt
    have := c.isLt
    omega
  case distances =>
    subst hp ha hb hc
    refine ⟨?_, ?_, ?_⟩ <;> congr 1 <;> ring
  case left => rw [hchoice, if_pos h]
  case above => rw [hchoice, if_neg h, if_pos h']
  case upperLeft => rw [hchoice, if_neg h, if_neg h']

/-! ## The recurrence -/

variable {ft : FilterType} {bpp : Nat} {prev x row : List Byte}

/-- The recurrence of 41_defilter.md R121. -/
theorem getD_defilterRow (hb : 1 ≤ bpp) {i : Nat} (hi : i < x.length) :
    (defilterRow ft bpp prev x).getD i 0 =
      x.getD i 0 + predictor ft (strideBack (defilterRow ft bpp prev x) bpp i) (prev.getD i 0)
        (strideBack prev bpp i) := by
  simpa [defilterRow] using getD_defilterFrom ft bpp prev [] x hb i (Nat.zero_le i) (by simpa using hi)

/-- Settles O22: the recurrence modulo 256, and each predictor. -/
theorem defilterRowRecurrence : Obligations.DefilterRowRecurrence := by
  refine ⟨fun ft bpp prev x hb _ => ⟨length_defilterRow .., fun i hi => ?byte⟩,
    fun a b c => ⟨rfl, rfl, rfl, toNat_average a b, rfl⟩⟩
  case byte =>
    have h := congrArg BitVec.toNat (getD_defilterRow (ft := ft) (prev := prev) hb hi)
    rwa [BitVec.toNat_add] at h

theorem ext_getD {a b : List Byte} (hl : a.length = b.length) (h : ∀ i, i < a.length → a.getD i 0 = b.getD i 0) :
    a = b := by
  refine List.ext_getElem hl fun i ha hb => ?_
  rw [← List.getD_eq_getElem a 0 ha, ← List.getD_eq_getElem b 0 hb, h i ha]

/-- `strideBack` looks only at bytes before its position. -/
theorem strideBack_congr {a b : List Byte} {i : Nat} (hb : 1 ≤ bpp)
    (h : ∀ j, j < i → a.getD j 0 = b.getD j 0) : strideBack a bpp i = strideBack b bpp i := by
  unfold strideBack
  split
  · exact h _ (by omega)
  · rfl

/-- The recurrence has one solution: each byte depends only on those before it. -/
theorem defilterRow_eq_of_recurrence (hb : 1 ≤ bpp) (hl : row.length = x.length)
    (h : ∀ i, i < x.length → row.getD i 0 =
      x.getD i 0 + predictor ft (strideBack row bpp i) (prev.getD i 0) (strideBack prev bpp i)) :
    defilterRow ft bpp prev x = row := by
  have hbyte : ∀ i, i < x.length → (defilterRow ft bpp prev x).getD i 0 = row.getD i 0 := by
    intro i
    induction i using Nat.strong_induction_on with
    | h i ih =>
      intro hi
      rw [getD_defilterRow hb hi, h i hi, strideBack_congr hb fun j hj => ih j hj (by omega)]
  exact ext_getD (by simp [hl]) (by simpa using hbyte)

/-- The inverse law (41_defilter.md R130): the row itself meets the recurrence of its forward filter. -/
theorem defilterRow_filterRow (ft : FilterType) (prev orig : List Byte) (hb : 1 ≤ bpp) :
    defilterRow ft bpp prev (filterRow ft bpp prev orig) = orig := by
  refine defilterRow_eq_of_recurrence hb (by simp) fun i hi => ?_
  rw [getD_filterRow _ _ _ _ _ (by simpa using hi), filterByte, BitVec.sub_add_cancel]

/-- Settles O23: every listed stride is at least 1. -/
theorem defilterInvertsForwardFilter : Obligations.DefilterInvertsForwardFilter := by
  intro ft bpp prev orig hb _
  have hpos : ∀ n ∈ [1, 2, 3, 4, 6, 8], 1 ≤ n := by decide
  exact defilterRow_filterRow ft prev orig (hpos bpp hb)

end Sys2Proof.Machine
end

section
/-! DEFILTER and the five filters on the machine (41_defilter.md R120 to R132): where each does not complete, the row
each leaves in RECON, and the filters that agree on a first or on a short row. -/

namespace Sys2Proof.Machine

variable {s t : State} {m : ColorModel} {d : Nat}

/-! ## Errors and model faults -/

/-- Settles O8: a filter byte decodes only to the filter whose numeral it is. -/
theorem defilterRunsDecodedFilter : Obligations.DefilterRunsDecodedFilter := by
  intro s b i h0 hd
  obtain ⟨ft, hb, rfl⟩ := decode_filter_eq_ok.mp hd
  exact exec_defilter_of_filter h0 (FilterType.ofByte_eq_some.mpr hb)

/-- The first unwritten data byte is the model fault of a filter (00_scope.md R13). -/
theorem exec_filter_of_unwritten (ft : FilterType) (he : s.err = false) (hf : legalFormat s.format = some (m, d))
    (h2 : rowLength m d s.width ≤ s.cfg.rowBytesMax) {k : Nat} (hk : 1 ≤ k) (hkl : k ≤ rowLength m d s.width)
    (hn : s.rawByte k = none) (hw : ∀ j, 1 ≤ j → j < k → s.rawByte j ≠ none) :
    exec ft.instr s = .fault (.rawUnwritten k) := by
  obtain ⟨i, rfl⟩ := Nat.exists_eq_add_of_le hk
  have hrow := s.rawRow_fault 1 (rowLength m d s.width) i (by omega) hn fun j hj => hw _ (by omega) (by omega)
  rw [exec_filter, defilterGate_of_row he hf (by omega) h2, defilterInto, hrow]

theorem exec_defilter_of_no_filter_byte (he : s.err = false) (hf : legalFormat s.format = some (m, d))
    (h1 : 1 ≤ rowLength m d s.width) (h2 : rowLength m d s.width ≤ s.cfg.rowBytesMax) (h0 : s.rawByte 0 = none) :
    exec .defilter s = .fault (.rawUnwritten 0) := by
  change execDefilter s = _
  simp only [execDefilter, defilterGate_of_row he hf h1 h2, h0]

theorem exec_defilter_of_invalid_filter (he : s.err = false) (hf : legalFormat s.format = some (m, d))
    (h1 : 1 ≤ rowLength m d s.width) (h2 : rowLength m d s.width ≤ s.cfg.rowBytesMax) {b : Byte}
    (h0 : s.rawByte 0 = some b) (hb : 4 < b.toNat) :
    exec .defilter s = .next (s.recorded 0x01 (b.setWidth 32)) := by
  change execDefilter s = _
  simp only [execDefilter, defilterGate_of_row he hf h1 h2, h0, FilterType.ofByte_eq_none.mpr hb,
    State.raiseError_of_no_error he, ErrorCode.toByte]

/-- Settles O26: the five instructions are the five filters, and a filter is the row transform behind the gate. -/
theorem filtersTrapAsDefilter : Obligations.FiltersTrapAsDefilter := by
  intro i hi
  obtain ⟨ft, rfl⟩ : ∃ ft : FilterType, i = ft.instr := by
    simp only [List.mem_cons, List.not_mem_nil, or_false] at hi
    rcases hi with rfl | rfl | rfl | rfl | rfl
    exacts [⟨.none, rfl⟩, ⟨.sub, rfl⟩, ⟨.up, rfl⟩, ⟨.average, rfl⟩, ⟨.paeth, rfl⟩]
  refine ⟨fun s he => exec_filter_of_error ft he, fun s he hf => ?format, fun s m d he hf hl => ?length,
    fun s m d k he hf hm => exec_filter_of_unwritten ft he hf hm⟩
  case format => rw [exec_filter, defilterGate_of_illegal he hf]
  case length => rw [exec_filter, defilterGate_of_length he hf hl]; rfl

/-! ## The row a filter leaves in RECON -/

/-- Where the data bytes in RAW are `x`, a filter that can run leaves the row transform of `x` in RECON. -/
theorem exec_filter_of_bytes (ft : FilterType) (h : s.RowReady m d) {x : List Byte}
    (hl : x.length = rowLength m d s.width) (hx : ∀ i, i < x.length → s.rawByte (1 + i) = some (x.getD i 0)) :
    exec ft.instr s = .next (s.setReconRow
      (defilterRow ft (bytesPerPixel m d) (s.reconRow 0 (rowLength m d s.width)) x)) := by
  obtain ⟨y, hy, hb, he⟩ := exec_filter_of_ready ft h
  have hxy : x = y := ext_getD (hl.trans hy.symm) fun i hi =>
    Option.some.inj ((hx i hi).symm.trans (hb i (by omega)))
  rw [he, hxy]

/-- The same for DEFILTER with the filter that RAW[0] names (41_defilter.md R120). -/
theorem exec_defilter_of_bytes {ft : FilterType} (h : s.RowReady m d) (h0 : s.rawByte 0 = some ft.toByte)
    {x : List Byte} (hl : x.length = rowLength m d s.width)
    (hx : ∀ i, i < x.length → s.rawByte (1 + i) = some (x.getD i 0)) :
    exec .defilter s = .next (s.setReconRow
      (defilterRow ft (bytesPerPixel m d) (s.reconRow 0 (rowLength m d s.width)) x)) := by
  rw [exec_defilter_of_filter h0 (FilterType.ofByte_eq_some.mpr rfl)]
  exact exec_filter_of_bytes ft h hl hx

/-- A row written to RECON, all else unchanged (41_defilter.md R120). -/
theorem State.setReconRow_frame (s : State) (row : List Byte) :
    s.setReconRow row = { s with recon := (s.setReconRow row).recon } ∧
      (∀ i, i < row.length → (s.setReconRow row).reconByte i = row.getD i 0) ∧
      ∀ k, row.length ≤ k → (s.setReconRow row).reconByte k = s.reconByte k :=
  ⟨rfl, fun i hi => by rw [State.reconByte_setReconRow, if_pos hi],
    fun k hk => by rw [State.reconByte_setReconRow, if_neg (by omega)]⟩

/-- Settles O25: the gate's clauses, the two ends of reading RAW[0], and the filter it names. -/
theorem defilterCommand : Obligations.DefilterCommand := by
  refine ⟨rfl, fun s he => defilterGate_of_error he _, fun s he hf => defilterGate_of_illegal he hf _,
    fun s m d he hf hl => defilterGate_of_length he hf hl _,
    fun s m d he hf h1 h2 => ⟨?unwritten, ?invalid, ?fault⟩, fun s m d ft x h h0 hl hx => ?row⟩
  case unwritten => exact exec_defilter_of_no_filter_byte he hf h1 h2
  case invalid => exact fun b h0 hb => exec_defilter_of_invalid_filter he hf h1 h2 h0 hb
  case fault =>
    intro b k h0 hb hk hkl hn hw
    cases hft : FilterType.ofByte b with
    | none => exact absurd (FilterType.ofByte_eq_none.mp hft) (by omega)
    | some ft =>
      rw [exec_defilter_of_filter h0 hft]
      exact exec_filter_of_unwritten ft he hf h2 hk hkl hn hw
  case row =>
    refine ⟨_, exec_defilter_of_bytes h h0 hl hx, ?_⟩
    rw [← hl]
    simpa using s.setReconRow_frame (defilterRow ft (bytesPerPixel m d) (s.reconRow 0 x.length) x)

/-- Settles O24: the bytes in RAW are the forward filter of `orig`, which the row transform inverts. -/
theorem defilterStepRestoresRow : Obligations.DefilterStepRestoresRow := by
  intro s m d ft orig h h0 hl hx
  have hstep := stepRunsDecodedCommand s _ _ (decode_encode .defilter)
  have hexec := exec_defilter_of_bytes h h0
    (x := filterRow ft (bytesPerPixel m d) (s.reconRow 0 (rowLength m d s.width)) orig)
    (by simpa using hl) fun i hi => by
      rw [length_filterRow] at hi
      rw [getD_filterRow _ _ _ _ _ hi, hx i hi]
  rw [defilterRow_filterRow _ _ _ (one_le_bytesPerPixel m d)] at hexec
  exact ⟨_, hstep.trans hexec, s.setReconRow_frame orig⟩

/-! ## Each byte of the row -/

/-- Byte `i - bpp` of RECON, or 0 before the start of the row: `a` read after, `c` read before (41_defilter.md R121). -/
def State.reconBack (s : State) (bpp i : Nat) : Byte := if bpp ≤ i then s.reconByte (i - bpp) else 0

/-- `t` is `s` with the row of L bytes that R121 gives for the filter in RECON (41_defilter.md R120, R121). -/
structure State.Defiltered (ft : FilterType) (m : ColorModel) (d : Nat) (s t : State) : Prop where
  frame : t = { s with recon := t.recon }
  past : ∀ k, rowLength m d s.width ≤ k → t.reconByte k = s.reconByte k
  byte : ∀ i x, i < rowLength m d s.width → s.rawByte (1 + i) = some x →
    t.reconByte i = x + predictor ft (t.reconBack (bytesPerPixel m d) i) (s.reconByte i)
      (s.reconBack (bytesPerPixel m d) i)

theorem State.strideBack_reconRow (s : State) {n bpp i : Nat} (hb : 1 ≤ bpp) (hi : i < n) :
    strideBack (s.reconRow 0 n) bpp i = s.reconBack bpp i := by
  unfold strideBack State.reconBack
  split
  · rw [State.getD_reconRow _ _ _ _ (by omega), Nat.zero_add]
  · rfl

theorem State.reconBack_setReconRow (s : State) {row : List Byte} {bpp i : Nat} (hb : 1 ≤ bpp) (hi : i < row.length) :
    (s.setReconRow row).reconBack bpp i = strideBack row bpp i := by
  unfold strideBack State.reconBack
  split
  · rw [State.reconByte_setReconRow, if_pos (by omega)]
  · rfl

/-- A filter that can run completes, and each byte is the one R121 gives. -/
theorem exec_filter_defiltered (ft : FilterType) (h : s.RowReady m d) :
    ∃ t, exec ft.instr s = .next t ∧ s.Defiltered ft m d t := by
  obtain ⟨x, hl, hx, he⟩ := exec_filter_of_ready ft h
  obtain ⟨hframe, hrow, hpast⟩ :=
    s.setReconRow_frame (defilterRow ft (bytesPerPixel m d) (s.reconRow 0 (rowLength m d s.width)) x)
  rw [length_defilterRow, hl] at hrow hpast
  have hb := one_le_bytesPerPixel m d
  refine ⟨_, he, hframe, hpast, fun i b hi hraw => ?_⟩
  obtain rfl : b = x.getD i 0 := Option.some.inj (hraw.symm.trans (hx i hi))
  rw [hrow i hi, getD_defilterRow hb (by omega), State.reconBack_setReconRow _ hb (by simp; omega),
    s.strideBack_reconRow hb hi, State.getD_reconRow _ _ _ _ hi, Nat.zero_add]

theorem State.Defiltered.toNat_byte {ft : FilterType} (h : s.Defiltered ft m d t) {i : Nat} {x : Byte}
    (hi : i < rowLength m d s.width) (hx : s.rawByte (1 + i) = some x) :
    (t.reconByte i).toNat = (x.toNat + (predictor ft (t.reconBack (bytesPerPixel m d) i) (s.reconByte i)
      (s.reconBack (bytesPerPixel m d) i)).toNat) % 256 := by
  rw [h.byte i x hi hx, BitVec.toNat_add]

theorem State.toNat_reconBack (s : State) (bpp i : Nat) :
    (s.reconBack bpp i).toNat = if bpp ≤ i then (s.reconByte (i - bpp)).toNat else 0 := by
  rw [State.reconBack, apply_ite BitVec.toNat]
  rfl

/-- Settles O16: the predictor of None is 0. -/
theorem filterNoneCopiesRow : Obligations.FilterNoneCopiesRow := by
  refine ⟨rfl, fun s m d h => ?_⟩
  obtain ⟨t, he, hd⟩ := exec_filter_defiltered .none h
  refine ⟨t, he, hd.frame, fun i hi => ?_, hd.past⟩
  obtain ⟨x, hx⟩ := Option.ne_none_iff_exists'.mp (h.written (1 + i) (by omega) (by omega))
  rw [hd.byte i x hi hx, hx]
  exact congrArg some (BitVec.add_zero x)

/-- Settles O17: the predictor of Sub is left. -/
theorem filterSubAddsLeft : Obligations.FilterSubAddsLeft := by
  refine ⟨rfl, fun s m d h => ?_⟩
  obtain ⟨t, he, hd⟩ := exec_filter_defiltered .sub h
  refine ⟨t, he, hd.frame, fun i x hi hx => ?_, hd.past⟩
  rw [hd.toNat_byte hi hx, predictor, State.toNat_reconBack]

/-- Settles O18: the predictor of Up is above. -/
theorem filterUpAddsAbove : Obligations.FilterUpAddsAbove := by
  refine ⟨rfl, fun s m d h => ?_⟩
  obtain ⟨t, he, hd⟩ := exec_filter_defiltered .up h
  exact ⟨t, he, hd.frame, fun _ _ => hd.toNat_byte, hd.past⟩

/-- Settles O19: the predictor of Average is the exact mean of left and above. -/
theorem filterAverageAddsExactMean : Obligations.FilterAverageAddsExactMean := by
  refine ⟨rfl, fun s m d h => ?_⟩
  obtain ⟨t, he, hd⟩ := exec_filter_defiltered .average h
  refine ⟨t, he, hd.frame, fun i x hi hx => ?_, hd.past⟩
  rw [hd.toNat_byte hi hx, predictor, toNat_average, State.toNat_reconBack]

/-- Settles O20: the predictor of Paeth is paeth of left, above and upper left. -/
theorem filterPaethAddsPrediction : Obligations.FilterPaethAddsPrediction := by
  refine ⟨rfl, fun s m d h => ?_⟩
  obtain ⟨t, he, hd⟩ := exec_filter_defiltered .paeth h
  exact ⟨t, he, hd.frame, fun _ _ => hd.toNat_byte, hd.past⟩

/-! ## Filters that agree on a row -/

theorem defilterGate_congr {run run' : ColorModel → Nat → Host.Outcome State Fault Refusal}
    (h : ∀ m d, legalFormat s.format = some (m, d) → run m d = run' m d) :
    defilterGate s run = defilterGate s run' := by
  unfold defilterGate
  split
  · rfl
  · split
    · rfl
    · next m d hf => rw [h m d hf]

/-- Two filters that predict the same at every byte of the row are the same instruction there. -/
theorem exec_filter_congr {ft ft' : FilterType}
    (h : ∀ m d, legalFormat s.format = some (m, d) → ∀ row i, i < rowLength m d s.width →
      predictor ft (strideBack row (bytesPerPixel m d) i) (s.reconByte i) (s.reconBack (bytesPerPixel m d) i) =
        predictor ft' (strideBack row (bytesPerPixel m d) i) (s.reconByte i) (s.reconBack (bytesPerPixel m d) i)) :
    exec ft.instr s = exec ft'.instr s := by
  rw [exec_filter, exec_filter]
  refine defilterGate_congr fun m d hf => ?_
  unfold defilterInto
  split
  · rfl
  · next x hx =>
    have hb := one_le_bytesPerPixel m d
    have hl := State.length_rawRow hx
    congr 2
    refine defilterRow_eq_of_recurrence hb (by simp) fun i hi => ?_
    rw [getD_defilterRow hb hi, s.strideBack_reconRow hb (by omega), State.getD_reconRow _ _ _ _ (by omega),
      Nat.zero_add, h m d hf _ i (by omega)]

/-- Settles O27: on a zero RECON above and upper left are 0. -/
theorem firstRowReducesFilters : Obligations.FirstRowReducesFilters := by
  intro s h0
  have hc : ∀ bpp i, s.reconBack bpp i = 0 := fun bpp i => by rw [State.reconBack, h0, ite_self]
  refine ⟨exec_filter_congr (ft := .up) (ft' := .none) fun m d _ row i _ => ?up,
    exec_filter_congr (ft := .paeth) (ft' := .sub) fun m d _ row i _ => ?paeth, fun m d h => ?average⟩
  case up => exact h0 i
  case paeth => rw [h0, hc]; exact paeth_left _
  case average =>
    obtain ⟨t, he, hd⟩ := exec_filter_defiltered .average h
    refine ⟨t, he, fun i x hi hx => ?_⟩
    rw [hd.toNat_byte hi hx, predictor, h0, toNat_average_left, State.toNat_reconBack]

/-- Settles O28: on a row no longer than the stride left and upper left are 0. -/
theorem shortRowReducesFilters : Obligations.ShortRowReducesFilters := by
  intro s m d hf hl
  have hformat : ∀ {m' d'}, legalFormat s.format = some (m', d') → m' = m ∧ d' = d := fun h => by
    simpa using h.symm.trans hf
  have ha : ∀ row i, i < rowLength m d s.width → strideBack row (bytesPerPixel m d) i = 0 := fun row i hi => by
    rw [strideBack, if_neg (by omega)]
  have hc : ∀ (t : State) i, i < rowLength m d s.width → t.reconBack (bytesPerPixel m d) i = 0 := fun t i hi => by
    rw [State.reconBack, if_neg (by omega)]
  refine ⟨exec_filter_congr (ft := .sub) (ft' := .none) fun m' d' hf' row i hi => ?sub,
    exec_filter_congr (ft := .paeth) (ft' := .up) fun m' d' hf' row i hi => ?paeth, fun h => ?average⟩
  case sub =>
    obtain ⟨rfl, rfl⟩ := hformat hf'
    exact ha row i hi
  case paeth =>
    obtain ⟨rfl, rfl⟩ := hformat hf'
    rw [ha row i hi, hc s i hi]
    exact paeth_above _
  case average =>
    obtain ⟨t, he, hd⟩ := exec_filter_defiltered .average h
    refine ⟨t, he, fun i x hi hx => ?_⟩
    rw [hd.toNat_byte hi hx, predictor, hc t i hi, toNat_average_above]

end Sys2Proof.Machine
end

section
/-! The frame of every instruction but RESET (41_defilter.md R120, 42_pixel_extract.md R150, 40_commands.md R100, R101),
read off everything an instruction can do. -/

namespace Sys2Proof.Machine

variable {s t : State} {i : Instr}

theorem Instr.not_writesPixel
    (hi : i ∈ [.nop, .clearPrev, .defilter, .filterNone, .filterSub, .filterUp, .filterAverage, .filterPaeth]) :
    ¬Instr.writesPixel i := by
  rintro (rfl | ⟨m, depth, rfl⟩)
  · exact absurd hi (by decide)
  · cases m <;> simp [ColorModel.instr] at hi

theorem Instr.not_storesRow (hi : i ∈ [Instr.nop, .clearPrev, .reset]) : ¬Instr.storesRow i := by
  simp only [List.mem_cons, List.not_mem_nil, or_false] at hi
  rcases hi with rfl | rfl | rfl <;> simp [Instr.storesRow]

/-- No instruction touches the host side (log 2). -/
theorem ExecEffect.hostSide (h : ExecEffect i s t) : t.pending = s.pending ∧ t.reads = s.reads := by
  cases h <;> exact ⟨rfl, rfl⟩

/-- An instruction that stores a row writes RECON only behind a legal FORMAT, and only below L (41_defilter.md R120). -/
theorem ExecEffect.recon_of_storesRow (h : ExecEffect i s t) (hi : Instr.storesRow i) :
    t.recon = s.recon ∨ ∃ m d, legalFormat s.format = some (m, d) ∧
      ∀ k, rowLength m d s.width ≤ k → t.reconByte k = s.reconByte k := by
  cases h with
  | reset hr | cleared hr => exact absurd hi (Instr.not_storesRow (by simp [hr]))
  | stored m d row _ _ hf hl =>
    obtain ⟨-, -, hpast⟩ := s.setReconRow_frame row
    exact .inr ⟨m, d, hf, hl ▸ hpast⟩
  | same | recorded | noPixel | pixel => exact .inl rfl

/-- The error record changes only where an error is recorded (60_exceptions.md R181, R186). -/
theorem ExecEffect.error_record (h : ExecEffect i s t) (hr : i ≠ .reset) (he : t.err = s.err) :
    t.errCode = s.errCode ∧ t.errInfo = s.errInfo := by
  cases h with
  | reset hi => exact absurd hi hr
  | recorded code info hs => cases he.trans hs
  | same | cleared | stored | noPixel | pixel => exact ⟨rfl, rfl⟩

/-- NOP and CLEAR_PREV raise no error (40_commands.md R100, R101). -/
theorem ExecEffect.err_of_housekeeping (h : ExecEffect i s t) (hi : i ∈ [Instr.nop, .clearPrev]) : t.err = s.err := by
  cases h with
  | reset hr => exact absurd hi (by simp [hr])
  | recorded code info _ hs =>
    have hrow : ¬Instr.storesRow i := Instr.not_storesRow (List.mem_append_left [Instr.reset] hi)
    exact absurd (hs.resolve_left hrow) (Instr.not_writesPixel (List.mem_append_left _ hi))
  | same | cleared | stored | noPixel | pixel => rfl

/-- Settles O57: each clause is one of the frames of ExecEffect, RESET excluded. -/
theorem instructionFrame : Obligations.InstructionFrame := by
  intro i s t hr h
  have he := exec_next i s h
  have hhost := he.sameHost.resolve_right hr
  obtain ⟨hraw, hpal⟩ := he.raw_pal.resolve_right hr
  obtain ⟨hpending, hreads⟩ := he.hostSide
  refine ⟨?same, fun hi => ?row, fun hi => ?recon, fun hi => ?pixel, he.error_record hr, he.err_of_housekeeping⟩
  case same =>
    exact ⟨he.cfg, hhost.format, hhost.width, hhost.rawAddr, hhost.reconAddr, hhost.palAddr, hhost.palSize,
      hhost.pixIndex, hpending, hreads, State.rawByte_congr hraw, State.palEntry_congr hpal⟩
  case row =>
    rcases he.recon_of_storesRow hi with hrecon | ⟨m, d, hf, hpast⟩
    · exact ⟨fun k _ _ _ _ => State.reconByte_congr hrecon k, fun _ => State.reconByte_congr hrecon⟩
    · refine ⟨fun k m' d' hf' hk => ?_, fun hn => ?_⟩
      · obtain ⟨rfl, rfl⟩ : m = m' ∧ d = d' := by simpa using hf.symm.trans hf'
        exact hpast k hk
      · cases hf.symm.trans hn
  case recon =>
    obtain ⟨hclear, hrow⟩ : i ≠ .clearPrev ∧ ¬Instr.storesRow i := not_or.mp (List.mem_cons.not.mp hi)
    exact State.reconByte_congr (he.recon.resolve_right fun h => h.elim hr fun h => h.elim hclear hrow)
  case pixel => exact he.samePixel.resolve_right fun h => h.elim hr (Instr.not_writesPixel hi)

end Sys2Proof.Machine
end

section
/-! Which pixels lie in the row (42_pixel_extract.md R152, R159, R160): the bound on the last bit of a pixel as a bound on
its first byte, on its index among whole bytes of samples, and against WIDTH. -/

namespace Sys2Proof.Machine

variable {m : ColorModel} {d : Nat}

theorem inRow_iff {width : Word} {n : Nat} :
    inRow m d width n = true ↔ (n + 1) * bitsPerPixel m d ≤ 8 * rowLength m d width := decide_eq_true_iff

/-- Below 8 bits a pixel is one field whose width divides the byte (30_encoding.md R84). -/
theorem subByte_cases (h : d ∈ m.legalDepths) (hd : d < 8) : (d = 1 ∨ d = 2 ∨ d = 4) ∧ bitsPerPixel m d = d := by
  obtain h8 | ⟨hcases, rfl | rfl⟩ := ColorModel.legalDepths_cases h
  · omega
  · exact ⟨hcases, Nat.one_mul d⟩
  · exact ⟨hcases, Nat.one_mul d⟩

/-- From 8 bits up a pixel is whole bytes (30_encoding.md R84). -/
theorem eight_dvd_bitsPerPixel (h : d ∈ m.legalDepths) (hd : 8 ≤ d) : 8 ∣ bitsPerPixel m d := by
  have h8 : 8 ∣ d := by
    have := ColorModel.legalDepths_cases h
    omega
  exact h8.mul_left (channels m)

/-- A row of pixels of whole bytes has no padding (00_scope.md R8). -/
theorem rowLength_of_dvd (h : 8 ∣ bitsPerPixel m d) (width : Word) :
    rowLength m d width = width.toNat * (bitsPerPixel m d / 8) := by
  rw [← Nat.mul_div_assoc _ h]
  have := h.mul_left width.toNat
  unfold rowLength
  omega

/-- A pixel of whole bytes is in the row when its first byte is (42_pixel_extract.md R152). -/
theorem inRow_iff_of_eight_le (h : d ∈ m.legalDepths) (hd : 8 ≤ d) (width : Word) (n : Nat) :
    inRow m d width n = true ↔ n * (bitsPerPixel m d / 8) < rowLength m d width := by
  have hdvd := eight_dvd_bitsPerPixel h hd
  have hpos : 0 < bitsPerPixel m d / 8 := Nat.div_pos (Nat.le_of_dvd (bitsPerPixel_bounds h).1 hdvd) (by omega)
  have hbits : (n + 1) * bitsPerPixel m d = 8 * ((n + 1) * (bitsPerPixel m d / 8)) := by
    rw [Nat.mul_left_comm, Nat.mul_div_cancel' hdvd]
  rw [inRow_iff, hbits, rowLength_of_dvd hdvd, Nat.mul_le_mul_left_iff (by omega), Nat.mul_le_mul_right_iff hpos,
    Nat.mul_lt_mul_right hpos, Nat.add_one_le_iff]

/-- With a sub-byte depth every sample of the L bytes is in the row (42_pixel_extract.md R159). -/
theorem inRow_iff_of_subByte (h : d ∈ m.legalDepths) (hd : d < 8) (width : Word) (n : Nat) :
    inRow m d width n = true ↔ n < 8 / d * rowLength m d width := by
  obtain ⟨hcases, hbits⟩ := subByte_cases h hd
  rw [inRow_iff, hbits]
  obtain rfl | rfl | rfl := hcases <;> omega

/-- The bytes of the row hold the samples below `8 div d * L`. -/
theorem subByte_byte_lt_iff (h : d ∈ m.legalDepths) (hd : d < 8) (n L : Nat) : n * d / 8 < L ↔ n < 8 / d * L := by
  obtain ⟨rfl | rfl | rfl, -⟩ := subByte_cases h hd <;> omega

/-- The samples of the row are the WIDTH pixels and the padding (42_pixel_extract.md R159). -/
theorem subByte_samples (h : d ∈ m.legalDepths) (hd : d < 8) (width : Word) :
    8 / d * rowLength m d width =
      width.toNat + (8 * rowLength m d width - width.toNat * bitsPerPixel m d) / d := by
  have hle := bits_le_rowLength m d width
  obtain ⟨hcases, hbits⟩ := subByte_cases h hd
  rw [hbits] at hle ⊢
  obtain rfl | rfl | rfl := hcases <;> omega

/-- The WIDTH pixels themselves are in the row (42_pixel_extract.md R152). -/
theorem inRow_of_lt_width {width : Word} {n : Nat} (hn : n < width.toNat) : inRow m d width n = true :=
  inRow_iff.mpr ((Nat.mul_le_mul_right _ hn).trans (bits_le_rowLength m d width))

/-- Settles O38: the last index would need `2 ^ 32` pixels of bits, more than the row has. -/
theorem paddingIndicesAreInRow : Obligations.PaddingIndicesAreInRow := by
  intro f m d width n hf
  have h := legalDepths_of_legalFormat hf
  refine ⟨fun hd => inRow_iff_of_subByte h hd width n, fun hd => subByte_samples h hd width, inRow_of_lt_width,
    fun hn hL => ?wrap⟩
  case wrap =>
    rw [Bool.eq_false_iff, ne_eq, inRow_iff, hn]
    omega

end Sys2Proof.Machine
end

section
/-! EXTRACT and the five variants on the machine (42_pixel_extract.md R150 to R158): where each does not reach a pixel,
and the pixel each writes. -/

namespace Sys2Proof

/-- FORMAT as ERR_INFO records it (60_exceptions.md R180). -/
theorem FormatBits.setWidth_make (ct depth : Byte) :
    (FormatBits.make ct depth).setWidth 32 = BitVec.ofNat 32 (ct.toNat * 256 + depth.toNat) := by
  rw [← BitVec.ofNat_toNat, FormatBits.make, BitVec.toNat_append, ← Nat.shiftLeft_add_eq_or_of_lt depth.isLt,
    Nat.shiftLeft_eq]

end Sys2Proof

namespace Sys2Proof.Machine

variable {s : State} {m : ColorModel} {d : Nat} {depth : Byte}

/-! ## Where a variant does not reach its pixel -/

theorem exec_variant_of_length (he : s.err = false) (hd : depth.toNat ∈ m.legalDepths)
    (hl : s.cfg.rowBytesMax < rowLength m depth.toNat s.width) :
    exec (m.instr depth) s = .next (s.recorded 0x03 (saturate (rowLength m depth.toNat s.width))) := by
  rw [exec_variant, extractWith_of_length he hd hl]

theorem exec_variant_of_no_pixel (he : s.err = false) (hd : depth.toNat ∈ m.legalDepths)
    (hl : rowLength m depth.toNat s.width ≤ s.cfg.rowBytesMax)
    (hn : 8 * rowLength m depth.toNat s.width < (s.pixIndex.toNat + 1) * bitsPerPixel m depth.toNat) :
    exec (m.instr depth) s = .next s.noPixel := by
  rw [exec_variant, extractWith_of_no_pixel he hd hl hn]

/-- Settles O37: the clauses are the branches of the gate. -/
theorem variantsTrapAsExtract : Obligations.VariantsTrapAsExtract := by
  refine fun m depth => ⟨fun s he => exec_variant_of_error m depth he, fun s he hd => ?format,
    fun s he hd hl => exec_variant_of_length he hd hl, fun s he hd hl hn => exec_variant_of_no_pixel he hd hl hn⟩
  case format => rw [exec_variant, extractWith_of_illegal he hd, FormatBits.setWidth_make]

/-! ## The pixel of a variant -/

theorem exec_variant_of_ready (h : s.PixelReady m depth) :
    exec (m.instr depth) s = variantRun s m depth.toNat s.pixIndex.toNat := by
  rw [exec_variant, extractWith_of_ready h]

/-- Settles O30: the depth reaches the sample and the synthesised alpha. -/
theorem greyscalePixel : Obligations.GreyscalePixel :=
  ⟨encode_variantInstr .greyscale, fun _ _ => exec_variant_of_ready⟩

/-- Settles O31: channel 0 three times, channel 1 as alpha. -/
theorem greyscaleAlphaPixel : Obligations.GreyscaleAlphaPixel :=
  ⟨encode_variantInstr .greyscaleAlpha, fun _ _ => exec_variant_of_ready⟩

/-- Settles O32: channels 0 to 2, the alpha synthesised. -/
theorem rgbPixel : Obligations.RgbPixel := ⟨encode_variantInstr .rgb, fun _ _ => exec_variant_of_ready⟩

/-- Settles O33: channels 0 to 3. -/
theorem rgbaPixel : Obligations.RgbaPixel := ⟨encode_variantInstr .rgba, fun _ _ => exec_variant_of_ready⟩

/-! ## The palette (42_pixel_extract.md R158) -/

/-- A sample of depth d has d bits (42_pixel_extract.md R151). -/
theorem sample_lt (h : d ∈ m.legalDepths) (s : State) (n j : Nat) : sample s m d n j < 2 ^ d := by
  obtain ⟨hsub, h8, h16⟩ := sampleFields s m n j
  obtain (rfl | rfl) | ⟨hd, -⟩ := ColorModel.legalDepths_cases h
  · rw [h8]; exact BitVec.isLt _
  · rw [h16]; omega
  · rw [hsub d (by simpa using hd)]; exact Nat.mod_lt _ (Nat.two_pow_pos d)

theorem exec_palette_of_range (h : s.PixelReady .palette depth)
    (hix : s.palSize.toNat ≤ sample s .palette depth.toNat s.pixIndex.toNat 0) :
    exec (.pixPalette depth) s =
      .next (s.recorded 0x04 (BitVec.ofNat 32 (sample s .palette depth.toNat s.pixIndex.toNat 0))) := by
  refine (exec_variant_of_ready h).trans ((if_pos hix).trans ?_)
  rw [State.raiseError_of_no_error h.no_error]
  rfl

theorem exec_palette_of_unwritten (h : s.PixelReady .palette depth)
    (hix : sample s .palette depth.toNat s.pixIndex.toNat 0 < s.palSize.toNat)
    (hn : s.palEntry (sample s .palette depth.toNat s.pixIndex.toNat 0) = none) :
    exec (.pixPalette depth) s = .fault (.palUnwritten (sample s .palette depth.toNat s.pixIndex.toNat 0)) := by
  refine (exec_variant_of_ready h).trans ((if_neg hix.not_ge).trans ?_)
  rw [hn]

theorem exec_palette_of_entry {e : Rgb} (h : s.PixelReady .palette depth)
    (hix : sample s .palette depth.toNat s.pixIndex.toNat 0 < s.palSize.toNat)
    (he : s.palEntry (sample s .palette depth.toNat s.pixIndex.toNat 0) = some e) :
    exec (.pixPalette depth) s =
      .next (s.setPixel (BitVec.ofNat 16 e.r.toNat) (BitVec.ofNat 16 e.g.toNat) (BitVec.ofNat 16 e.b.toNat) 255) := by
  refine (exec_variant_of_ready h).trans ((if_neg hix.not_ge).trans ?_)
  simp only [he, BitVec.ofNat_toNat]

/-- Settles O34: the index is a sample, and the three ends of the lookup are disjoint at PAL_SIZE. -/
theorem palettePixel : Obligations.PalettePixel := by
  refine ⟨encode_variantInstr .palette, fun s depth ix h hix => ?_⟩
  subst hix
  exact ⟨sample_lt h.legal s _ _, exec_palette_of_range h, exec_palette_of_unwritten h,
    fun e => exec_palette_of_entry h⟩

/-! ## EXTRACT -/

/-- EXTRACT with a legal FORMAT is the variant of its colour model with its depth (42_pixel_extract.md R150). -/
theorem exec_extract_of_legal (hf : legalFormat s.format = some (m, d)) :
    ∃ depth : Byte, depth.toNat = d ∧ d ∈ m.legalDepths ∧ exec .extract s = exec (m.instr depth) s := by
  obtain ⟨hct, hdepth, hd⟩ := legalFormat_eq_some.mp hf
  exact ⟨_, hdepth, hd, exec_extract_of_variant hct⟩

theorem exec_extract_of_length (he : s.err = false) (hf : legalFormat s.format = some (m, d))
    (hl : s.cfg.rowBytesMax < rowLength m d s.width) :
    exec .extract s = .next (s.recorded 0x03 (saturate (rowLength m d s.width))) := by
  obtain ⟨depth, rfl, hd, hx⟩ := exec_extract_of_legal hf
  rw [hx, exec_variant_of_length he hd hl]

theorem exec_extract_of_no_pixel (he : s.err = false) (hf : legalFormat s.format = some (m, d))
    (hl : rowLength m d s.width ≤ s.cfg.rowBytesMax)
    (hn : 8 * rowLength m d s.width < (s.pixIndex.toNat + 1) * bitsPerPixel m d) :
    exec .extract s = .next s.noPixel := by
  obtain ⟨depth, rfl, hd, hx⟩ := exec_extract_of_legal hf
  rw [hx, exec_variant_of_no_pixel he hd hl hn]

/-- Settles O35: the three forms of the row-bounds test, and the gate's branch outside the row. -/
theorem outsideRowIsNoPixel : Obligations.OutsideRowIsNoPixel := by
  refine ⟨fun f m d width n hf => ⟨inRow_iff, ?whole, ?subByte⟩,
    fun s m d he hf hl hn => exec_extract_of_no_pixel he hf hl hn⟩
  case whole => exact fun hd => inRow_iff_of_eight_le (legalDepths_of_legalFormat hf) hd width n
  case subByte =>
    intro hd
    have h := legalDepths_of_legalFormat hf
    rw [inRow_iff_of_subByte h hd, subByte_byte_lt_iff h hd]

/-- A variant that reaches its pixel writes one: a palette lookup where the entry is there, any other model always. -/
theorem exec_variant_pixel (h : s.PixelReady m depth)
    (hp : m ≠ .palette ∨ ∃ e, s.palEntry (sample s m depth.toNat s.pixIndex.toNat 0) = some e ∧
      sample s m depth.toNat s.pixIndex.toNat 0 < s.palSize.toNat) :
    ∃ r g b a, exec (m.instr depth) s = .next (s.setPixel r g b a) := by
  cases m with
  | palette =>
    obtain ⟨e, he, hix⟩ := hp.resolve_left fun hne => hne rfl
    exact ⟨_, _, _, _, exec_palette_of_entry h hix he⟩
  | greyscale | rgb | greyscaleAlpha | rgba => exact ⟨_, _, _, _, exec_variant_of_ready h⟩

/-- Settles O36: the gate's clauses, then the variant FORMAT names, whose one error of its own is the palette's. -/
theorem extractCommand : Obligations.ExtractCommand := by
  refine ⟨rfl, fun s => exec_extract_of_error, fun s => exec_extract_of_illegal,
    fun s m d he hf hl => exec_extract_of_length he hf hl, fun s m d he hf hl hn => exec_extract_of_no_pixel he hf hl hn,
    fun s m depth hf h hp => ?pixel, fun s depth hf h hix => ?range⟩
  case pixel =>
    have hx := exec_extract_of_format hf
    exact ⟨hx, hx ▸ exec_variant_pixel h hp⟩
  case range => exact (exec_extract_of_format (m := .palette) hf).trans (exec_palette_of_range h hix)

end Sys2Proof.Machine
end

section
/-! The error state (60_exceptions.md R180 to R190): raising and idling, what a step keeps while ERR = 1, the way out
of it, and a step that records an error. -/

namespace Sys2Proof.Machine

variable {s t : State}

/-! ## Raising, idling and power-on -/

/-- Settles O40: the two sides of `raise Error`; after a first raise ERR = 1, so a second one is absorbed. -/
theorem raiseRecordsFirstErrorOnly : Obligations.RaiseRecordsFirstErrorOnly :=
  ⟨fun _ c info h => State.raiseError_of_no_error h c info, fun _ c info h => State.raiseError_of_error h c info,
    fun s c c' info info' => State.raiseError_of_error (s.raiseError_err c info) c' info',
    rfl, rfl, rfl, rfl, rfl, rfl, rfl⟩

/-- With no input pending the block is idle (60_exceptions.md R190). -/
theorem step_of_no_pending (h : s.pending = []) : step s = .next s := by
  simp [step, runPending, h]

/-- Settles O11: the step takes no input or the one input power-on, which is the reset that RESET performs. -/
theorem idleKeepsStateAndPowerOnResets : Obligations.IdleKeepsStateAndPowerOnResets :=
  ⟨fun _ => step_of_no_pending, fun s => step_of_pending (s := { s with pending := .powerOn :: s.pending }) rfl⟩

/-! ## While ERR = 1 -/

/-- `t` has the error record, RECON and the pixel registers of `s`: what only a reset changes while ERR = 1
(60_exceptions.md R181, R182, R186). -/
structure State.ErrorStateKept (s t : State) : Prop where
  err : t.err = s.err
  errCode : t.errCode = s.errCode
  errInfo : t.errInfo = s.errInfo
  recon : t.recon = s.recon
  pixel : s.SamePixel t

theorem State.ErrorStateKept.refl (s : State) : s.ErrorStateKept s := ⟨rfl, rfl, rfl, rfl, .rfl⟩

theorem State.ErrorStateKept.of_pending {rest : List Input} (h : { s with pending := rest }.ErrorStateKept t) :
    s.ErrorStateKept t :=
  { h with }

/-- A read in the error state moves an address register at most (20_memory.md R64 to R66; 60_exceptions.md R182). -/
theorem ReadEffect.errorStateKept {r : Reg} (h : ReadEffect r s t) (he : s.err = true) : s.ErrorStateKept t := by
  cases h with
  | err _ _ hno => cases he.symm.trans hno
  | ret | raw | recon | pal => exact { State.ErrorStateKept.refl s with }

/-- A write in the error state changes a host register or a cell of RAW or PAL at most, unless it is the RESET command
(40_commands.md R103; 60_exceptions.md R182). -/
theorem WriteEffect.errorStateKept {r : Reg} {w : Word} (h : WriteEffect r w s t) (he : s.err = true) :
    s.ErrorStateKept t ∨ r = .cmd ∧ w = 0x00000004 := by
  cases h with
  | err _ _ hno => cases he.symm.trans hno
  | cmd i t hr hd _ hx =>
    by_cases hi : i = .reset
    · exact .inr ⟨hr, word_of_reset (hi ▸ hd)⟩
    · cases (exec_of_error he hi).symm.trans hx
      exact .inl (.refl s)
  | _ => exact .inl { State.ErrorStateKept.refl s with }

/-- In the error state every step but a reset keeps it (60_exceptions.md R181, R182, R186). -/
theorem step_errorStateKept : ∀ s t : State, step s = .next t → s.err = true → ¬s.nextIsReset →
    s.ErrorStateKept t := by
  refine step_all ?idle ?reset ?unseen ?read ?write
  case idle => exact fun s _ _ => .refl s
  case reset => exact fun _ _ hr _ hn => absurd hr hn
  case unseen => exact fun _ _ _ _ _ _ => (State.ErrorStateKept.refl _).of_pending
  case read => exact fun _ _ _ _ _ hread he _ => (hread.errorStateKept he).of_pending
  case write =>
    intro s off w rest t hp hwrite he hn
    rcases hwrite.errorStateKept he with hk | ⟨hr, hw⟩
    · exact hk.of_pending
    · exact absurd (.inr (State.nextIsWrite_of_reg hp hr (by decide) hw)) hn

/-! ## The way out -/

/-- Power-on and the RESET command are the same reset (70_reset_and_hazards.md R200). -/
theorem step_of_reset (h : s.nextIsReset) : ∃ rest, step s = .next { s with pending := rest }.doReset := by
  rcases h with ⟨rest, hp⟩ | ⟨w, rest, rfl, hp⟩
  · exact ⟨rest, step_of_pending hp⟩
  · have hs : s = { s with pending := rest }.thenWrite 0x00 0x00000004 := congrArg ({ s with pending := · }) hp
    exact ⟨rest, (congrArg step hs).trans (stepRunsDecodedCommand _ _ _ (decode_encode .reset))⟩

/-- Settles O42: a reset leaves no error, and every other step keeps the one recorded. -/
theorem onlyResetLeavesErrorState : Obligations.OnlyResetLeavesErrorState := by
  refine fun s t he h => ⟨fun hr => ?reset, fun hn => ?kept⟩
  case reset =>
    obtain ⟨rest, hstep⟩ := step_of_reset hr
    cases hstep.symm.trans h
    exact ⟨rfl, rfl, rfl, State.rawByte_doReset _, State.palEntry_doReset _⟩
  case kept =>
    have hk := step_errorStateKept s t h he hn
    exact ⟨hk.err.trans he, hk.errCode, hk.errInfo⟩

/-- Settles O43: RECON and the pixel registers are part of what the error state keeps. -/
theorem nothingNewIsComputedWhileError : Obligations.NothingNewIsComputedWhileError := fun s t he h hn =>
  have hk := step_errorStateKept s t h he hn
  ⟨hk.recon, hk.pixel⟩

/-! ## A step that records an error -/

/-- The code an instruction records is one of R180. -/
theorem ExecEffect.raised_code {i : Instr} (h : ExecEffect i s t) (he : s.err = false) (ht : t.err = true) :
    1 ≤ t.errCode.toNat ∧ t.errCode.toNat ≤ 7 := by
  cases h with
  | recorded _ _ _ _ h1 h7 => exact ⟨h1, h7⟩
  | reset => cases ht
  | same | cleared | stored | noPixel | pixel => exact absurd (he.symm.trans ht) (by decide)

/-- The code a write records is one of R180. -/
theorem WriteEffect.raised_code {r : Reg} {w : Word} (h : WriteEffect r w s t) (he : s.err = false)
    (ht : t.err = true) : 1 ≤ t.errCode.toNat ∧ t.errCode.toNat ≤ 7 := by
  cases h with
  | cmd i t _ _ hi => exact hi.raised_code he ht
  | err _ _ _ h1 h7 => exact ⟨h1, h7⟩
  | _ => exact absurd (he.symm.trans ht) (by decide)

/-- A read that raises an error returns 0 and changes only the error record (20_memory.md R64, R65). -/
theorem ReadEffect.raised {r : Reg} (h : ReadEffect r s t) (he : s.err = false) (ht : t.err = true) :
    ∃ code info, 1 ≤ code.toNat ∧ code.toNat ≤ 7 ∧ t = (s.recorded code info).returnRead 0 := by
  cases h with
  | err code info _ h1 h7 => exact ⟨code, info, h1, h7, rfl⟩
  | ret | raw | recon | pal => exact absurd (he.symm.trans ht) (by decide)

/-- A step that raises an error is a read that does or a write that does (60_exceptions.md R181). -/
theorem step_raised : ∀ s t : State, step s = .next t → s.err = false → t.err = true →
    ∃ code info a rest, 1 ≤ code.toNat ∧ code.toNat ≤ 7 ∧ s.pending = .access a :: rest ∧
      (a.op = .read ∧ t = ({ s with pending := rest }.recorded code info).returnRead 0 ∨
        ∃ w, a.op = .write w ∧ t = { s with pending := rest }.recorded code info) := by
  refine step_all ?idle ?reset ?unseen ?read ?write
  case idle => exact fun _ he ht => absurd (he.symm.trans ht) (by decide)
  case reset => exact fun _ _ _ _ ht => Bool.noConfusion ht
  case unseen => exact fun _ _ _ _ he ht => absurd (he.symm.trans ht) (by decide)
  case read =>
    intro s off rest t hp hread he ht
    obtain ⟨code, info, h1, h7, heq⟩ := hread.raised he ht
    exact ⟨code, info, _, rest, h1, h7, hp, .inl ⟨rfl, heq⟩⟩
  case write =>
    intro s off w rest t hp hwrite he ht
    obtain ⟨h1, h7⟩ := hwrite.raised_code he ht
    exact ⟨t.errCode, t.errInfo, _, rest, h1, h7, hp, .inr ⟨w, rfl, hwrite.eq_recorded he ht⟩⟩

/-- Settles O44: `raise Error` by its two sides, the frame of a step that records an error, and the record kept by
every step that is no reset (O42). -/
theorem errorsArePrecise : Obligations.ErrorsArePrecise := by
  refine ⟨fun s c info => rfl, fun s t he h ht => ?recorded, fun s t he h => (onlyResetLeavesErrorState s t he h).2⟩
  case recorded =>
    obtain ⟨code, info, a, rest, h1, h7, hp, ⟨hop, rfl⟩ | ⟨w, hop, rfl⟩⟩ := step_raised s t h he ht
    · exact ⟨h1, h7, _, rest, hp, rfl, .inl ⟨rfl, a, rfl, hop⟩⟩
    · exact ⟨h1, h7, _, rest, hp, rfl, .inr ⟨rfl, a, w, rfl, hop⟩⟩

end Sys2Proof.Machine
end

section
/-! Reset (40_commands.md R102; 70_reset_and_hazards.md R200, R201): what RESET and power-on leave, that it is the
state the machine starts in, and that this state meets the invariant. -/

namespace Sys2Proof.Machine

/-- RESET has no gate: it runs with and without a recorded error (40_commands.md R102, R103). -/
theorem exec_reset (s : State) : exec .reset s = .next s.doReset := rfl

/-- A reset keeps of a state only the parameters and the host's side (log 2). -/
theorem State.doReset_eq_resetOf (s : State) :
    s.doReset = { State.resetOf s.cfg with pending := s.pending, reads := s.reads } := rfl

/-- Resetting the state after reset changes nothing, so what holds of every `doReset` holds of it. -/
theorem State.doReset_reset : State.reset.doReset = State.reset := rfl

/-- Settles O14: the reset of any state, register by register and buffer by buffer, and power-on as the RESET command
(O11). -/
theorem resetClearsEverything : Obligations.ResetClearsEverything :=
  ⟨rfl, fun s => ⟨s.doReset, exec_reset s, s.doReset_err, s.doReset_pixValid, s.doReset_errCode, s.doReset_errInfo,
    s.doReset_format, s.doReset_width, s.doReset_rawAddr, s.doReset_reconAddr, s.doReset_palAddr, s.doReset_palSize,
    s.doReset_pixIndex, s.doReset_pixR, s.doReset_pixG, s.doReset_pixB, s.doReset_pixA, s.reconByte_doReset,
    s.rawByte_doReset, s.palEntry_doReset, s.doReset_cfg,
    (idleKeepsStateAndPowerOnResets.2 s).trans (exec_reset s)⟩⟩

/-- Settles O15: RESET keeps the host's side and the parameters, so with State.reset's parameters and nothing for the
host to do it leaves State.reset, whose buffers are those of a reset. -/
theorem powerOnStateIsResetState : Obligations.PowerOnStateIsResetState := by
  refine ⟨fun s t h => ?host, fun s hcfg hpending hreads => ?left, ?recon, ?raw, ?pal⟩
  case host =>
    cases (exec_reset s).symm.trans h
    exact ⟨s.doReset_pending, s.doReset_reads⟩
  case left =>
    rw [exec_reset, State.doReset_eq_resetOf, hcfg, hpending, hreads]
    rfl
  case recon => exact State.doReset_reset ▸ State.reset.reconByte_doReset
  case raw => exact State.doReset_reset ▸ State.reset.rawByte_doReset
  case pal => exact State.doReset_reset ▸ State.reset.palEntry_doReset

/-- The state after reset meets the invariant for every value of the parameters that 00_scope.md R7 allows. -/
theorem State.resetOf_inv {cfg : Config} (h : cfg.wf = true) : (State.resetOf cfg).Inv where
  cfg_wf := h
  raw_wf := Memory.wf_nil rawUnlisted
  recon_wf := Memory.wf_nil reconUnlisted
  pal_wf := Memory.wf_nil palUnlisted
  raw_below := Memory.below_nil (cfg.rowBytesMax + 1)
  recon_below := Memory.below_nil cfg.rowBytesMax
  pal_below := Memory.below_nil 256
  no_error _ := ⟨rfl, rfl⟩
  error_code := nofun
  pal_size := Nat.zero_le 256
  no_pixel _ := ⟨rfl, rfl, rfl, rfl⟩

/-- Settles O58: the parameters of log 1, which State.reset has, are within the bounds of R7. -/
theorem resetMeetsInvariant : Obligations.ResetMeetsInvariant :=
  State.resetOf_inv (by decide : Config.initial.wf = true)

end Sys2Proof.Machine
end
